-- ==== Sys2Proof/Word.lean ====
section
/-! DEFINITION. The word types of the block (00_scope.md R8, R10): all values are unsigned, bit 0 is the least
significant bit, and everything the block computes wraps in its stated width. -/

namespace Sys2Proof

/-- `u8` of rule R10: an expander byte, a frame byte, a controller byte. -/
abbrev Byte := BitVec 8

/-- `u16` of rule R10: the device address and the payload lengths. -/
abbrev HalfWord := BitVec 16

/-- `u4` of rule R10: one nibble on the data lines D7..D4. -/
abbrev Nibble := BitVec 4

/-- The 9-bit controller word `RS:byte` of rule R8: bit 8 is RS, bits 7..0 are the byte. -/
abbrev CtrlWord := BitVec 9

end Sys2Proof
end

