-- ==== Sys2Proof/Syntax.lean ====
section
/-! DEFINITION. The instructions: one constructor per row of spec/opcode_table.json, in the table's order and in its
four layers (30_encoding.md R70). The REQ rows are the requests of the block, the WIRE rows the bytes that reach the
expander, the CMD rows the words that reach the controller, and the NIB rows the initialisation strobes it latches. -/

namespace Sys2Proof

inductive Instr where
  -- REQ: request frames (R72, R73)
  /-- `00 RR CC AL AH OO` (R131); option bits 7:3 are ignored and not kept (R74). -/
  | init (rows cols : Byte) (addr : HalfWord) (clamp font backlight : Bool)
  /-- `01` (R132). -/
  | clear
  /-- `02` (R133). -/
  | home
  /-- `03 RR CC` (R134). -/
  | setCursor (row col : Byte)
  /-- `04 NL NH d…` (R179). -/
  | print (data : List Byte)
  /-- `05 SS NL NH t…` (R180); selector bits 7:6 are ignored and not kept (R74). -/
  | showText (sel : BitVec 4) (ell pad : Bool) (text : List Byte)
  /-- `06 FF` (R145); bits 7:1 are ignored and not kept (R74). -/
  | setBacklight (on : Bool)
  /-- `07` (R135). -/
  | cursorOn
  /-- `08` (R136). -/
  | cursorOff
  /-- `09` (R137). -/
  | blinkOn
  /-- `0A` (R138). -/
  | blinkOff
  /-- `0B` (R139). -/
  | displayOn
  /-- `0C` (R140). -/
  | displayOff
  /-- `0D` (R141). -/
  | leftToRight
  /-- `0E` (R142). -/
  | rightToLeft
  /-- `0F` (R143). -/
  | autoscroll
  /-- `10` (R144). -/
  | noAutoscroll
  /-- `11 GG b…` (R200): GG bits 6:0 are the slot as written (the block masks it), GG bit 7 is the bitmap's size. -/
  | uploadGlyph (slot : BitVec 7) (bitmap : List Byte)
  /-- `12 FF VV` (R146); FF bits 7:1 are ignored and not kept (R74). -/
  | writeByte (isData : Bool) (value : Byte)
  /-- An opcode byte `13`..`FF` (R75). -/
  | illegalRequest (opcode : Byte)
  -- WIRE: expander bytes (R77)
  /-- A latch or release byte, E = 0. -/
  | wireELow (d : Nibble) (bl rs : Bool)
  /-- A strobe-high byte, E = 1. -/
  | wireEHigh (d : Nibble) (bl rs : Bool)
  -- CMD: controller words (R80)
  /-- `0:0x01` (R210). -/
  | clearDisplay
  /-- `0:0000001x` (R211). -/
  | returnHome (x : Bool)
  /-- `0:000001 ID S` (R212). -/
  | entryModeSet (inc shift : Bool)
  /-- `0:00001 D C B` (R213). -/
  | displayControl (d c b : Bool)
  /-- `0:001 DL N F xx` (R214). -/
  | functionSet (dl n f : Bool) (x : BitVec 2)
  /-- `0:01 AAAAAA` (R215). -/
  | setCgramAddr (a : BitVec 6)
  /-- `0:1 AAAAAAA` (R216). -/
  | setDdramAddr (a : BitVec 7)
  /-- `0:0001 SC RL xx` (R86). -/
  | cursorDisplayShift (sc rl : Bool) (x : BitVec 2)
  /-- `0:00000000` (R86). -/
  | noCommand00
  /-- `1:DDDDDDDD` (R217). -/
  | writeData (d : Byte)
  -- NIB: initialisation strobes (R82)
  /-- Nibble `0:0x3` (R218). -/
  | initNibble8bit
  /-- Nibble `0:0x2` (R219). -/
  | initNibble4bit
  deriving DecidableEq, Repr

/-- An encoded instruction, by layer (R70): a request frame, an expander byte, a controller word, or the five bits
`RS:nibble` of an initialisation strobe. -/
inductive Code where
  | frame (bytes : List Byte)
  | wire (b : Byte)
  | word (w : CtrlWord)
  | nibble (v : BitVec 5)
  deriving DecidableEq, Repr

end Sys2Proof
end

