-- ==== Sys2Proof/WellFormed.lean ====
section
/-! DEFINITION. Which instructions can be encoded (30_encoding.md R73, R75): the payload lengths are u16, a glyph
bitmap has 8 or 11 bytes, and an illegal opcode is one the map does not define. Operand values outside a geometry are
well formed: they decode, and the request's own checks reject them (R76). -/

namespace Sys2Proof

/-- The payload length fits the frame's u16 field (R73, R170). -/
def payloadFits (data : List Byte) : Bool := decide (data.length < 65536)

/-- A bitmap is 8 bytes, or 11 bytes for the 5×10 font (R201). -/
def bitmapFits (bitmap : List Byte) : Bool := bitmap.length == 8 || bitmap.length == 11

/-- The opcode is outside the map of R72. -/
def opcodeIllegal (opcode : Byte) : Bool := decide (0x13 ≤ opcode.toNat)

/-- The instruction has an encoding. -/
def Instr.wellFormed : Instr → Bool
  | .print data => payloadFits data
  | .showText _ _ _ text => payloadFits text
  | .uploadGlyph _ bitmap => bitmapFits bitmap
  | .illegalRequest opcode => opcodeIllegal opcode
  | .init _ _ _ _ _ _ | .clear | .home | .setCursor _ _ | .setBacklight _ | .cursorOn | .cursorOff | .blinkOn
  | .blinkOff | .displayOn | .displayOff | .leftToRight | .rightToLeft | .autoscroll | .noAutoscroll
  | .writeByte _ _ | .wireELow _ _ _ | .wireEHigh _ _ _ | .clearDisplay | .returnHome _ | .entryModeSet _ _
  | .displayControl _ _ _ | .functionSet _ _ _ _ | .setCgramAddr _ | .setDdramAddr _ | .cursorDisplayShift _ _ _
  | .noCommand00 | .writeData _ | .initNibble8bit | .initNibble4bit => true

end Sys2Proof
end

