-- ==== Sys2Proof/Decode.lean ====
section
/-! DEFINITION. Decoding and encoding of the three layers (30_encoding.md R70 to R90). A request frame is read from a
list of bytes and the bytes after it are handed back; a frame that is not complete is rejected by that name (R76). -/

namespace Sys2Proof

/-- Why bits are not an instruction. -/
inductive DecodeError where
  /-- Fewer bytes than the frame length of R89: "not yet a request" (R76). -/
  | incomplete
  /-- A code holds bytes after its frame. -/
  | trailing
  /-- An expander byte with RW = 1: "not in the block's output alphabet" (R78). -/
  | readWriteSet
  /-- A single nibble that is neither of the two initialisation nibbles (R82). -/
  | otherNibble
  deriving DecidableEq, Repr

/-- A `bit` as the lowest bit of a byte (R8, R10). -/
def bitByte (b : Bool) : Byte := BitVec.zeroExtend 8 (BitVec.ofBool b)

/-- A u16 field, low byte first (R71). -/
def halfWordOf (low high : Byte) : HalfWord := high ++ low

/-- The low byte of a u16 field (R71). -/
def lowByte (v : HalfWord) : Byte := v.extractLsb' 0 8

/-- The high byte of a u16 field (R71). -/
def highByte (v : HalfWord) : Byte := v.extractLsb' 8 8

/-- The first `n` bytes of `l` and the rest, if there are that many. -/
def takeBytes (n : Nat) (l : List Byte) : Except DecodeError (List Byte × List Byte) :=
  if n ≤ l.length then .ok (l.take n, l.drop n) else .error .incomplete

/-- PRINT's operands: `NL NH`, then n data bytes (R73). -/
def decodePrint : List Byte → Except DecodeError (Instr × List Byte)
  | nl :: nh :: r =>
    match takeBytes (halfWordOf nl nh).toNat r with
    | .ok (data, rest) => .ok (.print data, rest)
    | .error e => .error e
  | _ => .error .incomplete

/-- SHOW_TEXT's operands: `SS NL NH`, then n text bytes (R73); SS bits 7:6 are ignored (R74). -/
def decodeShowText : List Byte → Except DecodeError (Instr × List Byte)
  | ss :: nl :: nh :: r =>
    match takeBytes (halfWordOf nl nh).toNat r with
    | .ok (text, rest) => .ok (.showText (ss.extractLsb' 0 4) (ss.getLsbD 4) (ss.getLsbD 5) text, rest)
    | .error e => .error e
  | _ => .error .incomplete

/-- UPLOAD_GLYPH's operands: `GG`, then 8 or 11 bytes as GG bit 7 says (R73). -/
def decodeUploadGlyph : List Byte → Except DecodeError (Instr × List Byte)
  | gg :: r =>
    match takeBytes (if gg.getLsbD 7 then 11 else 8) r with
    | .ok (bitmap, rest) => .ok (.uploadGlyph (gg.extractLsb' 0 7) bitmap, rest)
    | .error e => .error e
  | [] => .error .incomplete

/-- The request frame at the front of the bytes, by its opcode (R72, R73), and the bytes after it. -/
def decodeFrame : List Byte → Except DecodeError (Instr × List Byte)
  | [] => .error .incomplete
  | op :: rest =>
    match op.toNat with
    | 0x00 =>
      match rest with
      | rr :: cc :: al :: ah :: oo :: r =>
        .ok (.init rr cc (halfWordOf al ah) (oo.getLsbD 0) (oo.getLsbD 1) (oo.getLsbD 2), r)
      | _ => .error .incomplete
    | 0x01 => .ok (.clear, rest)
    | 0x02 => .ok (.home, rest)
    | 0x03 =>
      match rest with
      | rr :: cc :: r => .ok (.setCursor rr cc, r)
      | _ => .error .incomplete
    | 0x04 => decodePrint rest
    | 0x05 => decodeShowText rest
    | 0x06 =>
      match rest with
      | ff :: r => .ok (.setBacklight (ff.getLsbD 0), r)
      | [] => .error .incomplete
    | 0x07 => .ok (.cursorOn, rest)
    | 0x08 => .ok (.cursorOff, rest)
    | 0x09 => .ok (.blinkOn, rest)
    | 0x0A => .ok (.blinkOff, rest)
    | 0x0B => .ok (.displayOn, rest)
    | 0x0C => .ok (.displayOff, rest)
    | 0x0D => .ok (.leftToRight, rest)
    | 0x0E => .ok (.rightToLeft, rest)
    | 0x0F => .ok (.autoscroll, rest)
    | 0x10 => .ok (.noAutoscroll, rest)
    | 0x11 => decodeUploadGlyph rest
    | 0x12 =>
      match rest with
      | ff :: vv :: r => .ok (.writeByte (ff.getLsbD 0) vv, r)
      | _ => .error .incomplete
    | _ => .ok (.illegalRequest op, rest)

/-- The length of the frame that the bytes begin, once enough of them are there to tell (R89). -/
def frameLength : List Byte → Option Nat
  | [] => none
  | op :: rest =>
    match op.toNat with
    | 0x00 => some 6
    | 0x03 | 0x12 => some 3
    | 0x06 => some 2
    | 0x04 =>
      match rest with
      | nl :: nh :: _ => some (3 + (halfWordOf nl nh).toNat)
      | _ => none
    | 0x05 =>
      match rest with
      | _ :: nl :: nh :: _ => some (4 + (halfWordOf nl nh).toNat)
      | _ => none
    | 0x11 =>
      match rest with
      | gg :: _ => some (if gg.getLsbD 7 then 13 else 10)
      | [] => none
    | _ => some 1

/-- The expander byte by its strobe line (R77, R78, R90). -/
def decodeWire (b : Byte) : Except DecodeError Instr :=
  if b.getLsbD 1 then .error .readWriteSet
  else if b.getLsbD 2 then .ok (.wireEHigh (b.extractLsb' 4 4) (b.getLsbD 3) (b.getLsbD 0))
  else .ok (.wireELow (b.extractLsb' 4 4) (b.getLsbD 3) (b.getLsbD 0))

/-- The controller word by RS and the position of its highest set bit (R80): every word has exactly one class. -/
def decodeWord (w : CtrlWord) : Instr :=
  if w.getLsbD 8 then .writeData (w.extractLsb' 0 8)
  else if w.getLsbD 7 then .setDdramAddr (w.extractLsb' 0 7)
  else if w.getLsbD 6 then .setCgramAddr (w.extractLsb' 0 6)
  else if w.getLsbD 5 then .functionSet (w.getLsbD 4) (w.getLsbD 3) (w.getLsbD 2) (w.extractLsb' 0 2)
  else if w.getLsbD 4 then .cursorDisplayShift (w.getLsbD 3) (w.getLsbD 2) (w.extractLsb' 0 2)
  else if w.getLsbD 3 then .displayControl (w.getLsbD 2) (w.getLsbD 1) (w.getLsbD 0)
  else if w.getLsbD 2 then .entryModeSet (w.getLsbD 1) (w.getLsbD 0)
  else if w.getLsbD 1 then .returnHome (w.getLsbD 0)
  else if w.getLsbD 0 then .clearDisplay
  else .noCommand00

/-- The initialisation nibble, bit 4 RS and bits 3..0 the nibble (R82). -/
def decodeNibble (v : BitVec 5) : Except DecodeError Instr :=
  if v = 0x03#5 then .ok .initNibble8bit
  else if v = 0x02#5 then .ok .initNibble4bit
  else .error .otherNibble

/-- The one instruction a code holds. -/
def decode : Code → Except DecodeError Instr
  | .frame bytes =>
    match decodeFrame bytes with
    | .ok (i, []) => .ok i
    | .ok (_, _ :: _) => .error .trailing
    | .error e => .error e
  | .wire b => decodeWire b
  | .word w => .ok (decodeWord w)
  | .nibble v => decodeNibble v

/-- The u16 length field of a payload, low byte first (R71, R73). -/
def lengthField (data : List Byte) : List Byte :=
  [lowByte (BitVec.ofNat 16 data.length), highByte (BitVec.ofNat 16 data.length)]

/-- INIT's option byte with its reserved bits 0 (R73, R74). -/
def initOptions (clamp font backlight : Bool) : Byte :=
  0#5 ++ BitVec.ofBool backlight ++ BitVec.ofBool font ++ BitVec.ofBool clamp

/-- SHOW_TEXT's selector byte with its reserved bits 0 (R73, R74). -/
def textSelector (sel : BitVec 4) (ell pad : Bool) : Byte :=
  0#2 ++ BitVec.ofBool pad ++ BitVec.ofBool ell ++ sel

/-- The expander byte D7..D4, BL, E, RW = 0, RS (R77). -/
def wireBits (d : Nibble) (bl e rs : Bool) : Byte :=
  d ++ BitVec.ofBool bl ++ BitVec.ofBool e ++ 0#1 ++ BitVec.ofBool rs

/-- The code of an instruction (R73, R77, R80, R82), reserved bits 0. -/
def encode : Instr → Code
  | .init rows cols addr clamp font backlight =>
    .frame [0x00, rows, cols, lowByte addr, highByte addr, initOptions clamp font backlight]
  | .clear => .frame [0x01]
  | .home => .frame [0x02]
  | .setCursor row col => .frame [0x03, row, col]
  | .print data => .frame (0x04 :: lengthField data ++ data)
  | .showText sel ell pad text => .frame (0x05 :: textSelector sel ell pad :: lengthField text ++ text)
  | .setBacklight on => .frame [0x06, bitByte on]
  | .cursorOn => .frame [0x07]
  | .cursorOff => .frame [0x08]
  | .blinkOn => .frame [0x09]
  | .blinkOff => .frame [0x0A]
  | .displayOn => .frame [0x0B]
  | .displayOff => .frame [0x0C]
  | .leftToRight => .frame [0x0D]
  | .rightToLeft => .frame [0x0E]
  | .autoscroll => .frame [0x0F]
  | .noAutoscroll => .frame [0x10]
  | .uploadGlyph slot bitmap => .frame (0x11 :: (BitVec.ofBool (bitmap.length == 11) ++ slot) :: bitmap)
  | .writeByte isData value => .frame [0x12, bitByte isData, value]
  | .illegalRequest opcode => .frame [opcode]
  | .wireELow d bl rs => .wire (wireBits d bl false rs)
  | .wireEHigh d bl rs => .wire (wireBits d bl true rs)
  | .clearDisplay => .word 0b000000001#9
  | .returnHome x => .word (0b00000001#8 ++ BitVec.ofBool x)
  | .entryModeSet inc shift => .word (0b0000001#7 ++ BitVec.ofBool inc ++ BitVec.ofBool shift)
  | .displayControl d c b => .word (0b000001#6 ++ BitVec.ofBool d ++ BitVec.ofBool c ++ BitVec.ofBool b)
  | .functionSet dl n f x => .word (0b0001#4 ++ BitVec.ofBool dl ++ BitVec.ofBool n ++ BitVec.ofBool f ++ x)
  | .setCgramAddr a => .word (0b001#3 ++ a)
  | .setDdramAddr a => .word (0b01#2 ++ a)
  | .cursorDisplayShift sc rl x => .word (0b00001#5 ++ BitVec.ofBool sc ++ BitVec.ofBool rl ++ x)
  | .noCommand00 => .word 0b000000000#9
  | .writeData d => .word (0b1#1 ++ d)
  | .initNibble8bit => .nibble 0x03#5
  | .initNibble4bit => .nibble 0x02#5

/-- The bytes of a number, least significant first. -/
def bytesOfNat : Nat → Nat → List Byte
  | 0, _ => []
  | n + 1, w => BitVec.ofNat 8 w :: bytesOfNat n (w / 256)

/-- The bytes after the ones the table gives an instruction are zeros; the longest frame they can complete is
UPLOAD_GLYPH's, 13 bytes (R89). -/
def zeroOperands : List Byte := List.replicate 13 0x00

/-- The layer an opcode-table row of `nbits` bits is read in: five bits are a nibble, nine (or the two whole bytes
that hold them) a controller word, anything else the bytes of a request frame, first byte lowest.
DESIGN CHOICE, safe: notes/assumptions/10.md. -/
def tableCode (nbits w : Nat) : Code :=
  if nbits = 5 then .nibble (BitVec.ofNat 5 w)
  else if nbits = 9 ∨ nbits = 16 then .word (BitVec.ofNat 9 w)
  else
    let bytes := bytesOfNat ((nbits + 7) / 8) w ++ zeroOperands
    .frame (match frameLength bytes with
      | some n => bytes.take n
      | none => bytes)

/-- The instruction the decoder reads from `w`, numbered as spec/opcode_table.json numbers its bits. -/
def decodeTableWord (nbits w : Nat) : Option Instr :=
  match decode (tableCode nbits w) with
  | .ok i => some i
  | .error _ => none

end Sys2Proof
end

