-- ==== Sys2Proof/Config.lean ====
section
/-! DEFINITION. What the platform fixes and what nobody fixes: the timing parameters of 00_scope.md R6, the transport's
answers (40_protocol_driver.md R100), and the FREE VALUES, which are opaque constants without a body: nothing can be
proved of them, so a claim holds whatever they are. -/

namespace Sys2Proof

/-- The platform's timing constants, in µs, each a minimum (R6, R283). They are "constants the model takes as
arguments": `State` holds one `Timing`, no step changes it, and a claim about every state is a claim for every value.
DESIGN CHOICE, safe: notes/assumptions/8.md. -/
structure Timing where
  tEnableHold : Nat
  tSettle     : Nat
  tInitFirst  : Nat
  tInitNext   : Nat
  tClearHome  : Nat
  tPowerOn    : Nat
  deriving DecidableEq, Repr

/-- The values R6 gives; `tPowerOn` is OPEN there and 50000 is its default. -/
def Timing.standard : Timing :=
  { tEnableHold := 200, tSettle := 50, tInitFirst := 4100, tInitNext := 150, tClearHome := 1520, tPowerOn := 50000 }

/-- The transport's error value, type `BusErrorInfo`, OPEN in R6 (92_eei_decisions.md D34).
DESIGN CHOICE, safe: any code, as a natural number (notes/assumptions/3.md). -/
abbrev BusErrorInfo := Nat

/-- The answer to one Tx (R100). An Err carries the transport's error value and the draw of 92_eei_decisions.md D12:
`took` says whether the expander's port holds the new byte (true) or kept the old one (false). -/
inductive Answer where
  | ok
  | err (info : BusErrorInfo) (took : Bool)
  deriving DecidableEq, Repr, Inhabited

/-- FREE VALUE: the answer the transport gives to the `k`-th Tx for which `State.answers` holds none
(R100: "a free draw"; notes/assumptions/2.md). -/
opaque Config.freeAnswer : Nat → Answer

/-- FREE VALUE: a controller address counter the spec leaves open (R205, R258; notes/assumptions/14.md, 17.md). -/
opaque Config.freeAddress : Nat → BitVec 7

/-- FREE VALUE: the controller flag number `flag` (0 I/D, 1 S, 2 D, 3 C, 4 B, 5 N, 6 F) where the spec leaves it open
(R258; notes/assumptions/14.md). -/
opaque Config.freeFlag : Nat → Nat → Bool

/-- FREE VALUE: a display shift the spec leaves open (R211, R217; notes/assumptions/18.md). -/
opaque Config.freeShift : Nat → Nat

end Sys2Proof
end

