-- ==== Sys2Proof/Machine/State.lean ====
section
/-! DEFINITION. The machine's state as plain data: the registers of 10_state.md R20, the sequencer of R33, the expander
port, the reference observer of 40_protocol_driver.md R110 with the controller contents that 44_controller_commands.md
acts on, the platform's parameters (R6), and the two ends of the host interface (R256). -/

namespace Sys2Proof.Machine

/-- LIFE (R21). -/
inductive Life where
  | uninitialized
  | ready
  deriving DecidableEq, Repr

/-- A micro-op of the sequencer (R33): `Tx` of the expander byte W(n, rs, e), whose backlight bit is the one BL holds
when the Tx is issued (R79, R105), or `Delay(t)` (R101). -/
inductive Op where
  | tx (n : Byte) (rs e : Bool)
  | delay (t : Nat)
  deriving DecidableEq, Repr

/-- What a request's end does besides its result: nothing; INIT's makes LIFE Ready (R21, R131); UPLOAD_GLYPH's leaves the
address pointer in CGRAM (R203) and, where the bitmap has 11 bytes, rows 0 to 2 of the slot after `slot` unknown (R205,
93_implementation_defined.md U17). DEDUCED, safe: notes/assumptions/25.md, 33.md, 36.md. -/
inductive Ending where
  | plain
  | init
  | glyph (slot : BitVec 3) (long : Bool)
  deriving DecidableEq, Repr

/-- SEQ (R33): idle, or busy with the micro-ops of a request and the index of the next one. `ending` says which request it
is, as far as its end depends on it. DEDUCED, safe: notes/assumptions/25.md. -/
inductive Seq where
  | idle
  | busy (ops : List Op) (k : Nat) (ending : Ending)
  deriving DecidableEq, Repr

/-- An event of a request's trace (R11, R100, R101): a transaction to a device address with its answer, or a delay. -/
inductive Event where
  | tx (addr : HalfWord) (b : Byte) (ans : Answer)
  | delay (t : Nat)
  deriving DecidableEq, Repr

/-- The result of a request with its payload (R240). -/
inductive Result where
  | ok
  | busError (info : BusErrorInfo)
  | invalidPosition (row col rows cols : Byte)
  | uninitialized
  | invalidGeometry (rows cols : Byte)
  | illegalRequest (opcode : Byte)
  deriving DecidableEq, Repr

/-- What reaches a downstream agent without having been sent by the block (20_memory.md R62 lets another bus user
transact between two requests): a byte at the expander, a word at the controller, or one strobed nibble `RS:n`.
DESIGN CHOICE, unsafe: notes/assumptions/11.md. -/
inductive Arrival where
  | wire (b : Byte)
  | word (w : CtrlWord)
  | nibble (v : BitVec 5)
  deriving DecidableEq, Repr

/-- A controller memory: (address, byte) pairs, addresses strictly rising; an address that is not listed holds a byte
nothing is known of (notes/assumptions/19.md). -/
abbrev Memory := List Host.Cell

/-- The observer's interface width (R110). -/
inductive Mode where
  | eight
  | four
  deriving DecidableEq, Repr

/-- The observer's nibble phase (R110). -/
inductive Phase where
  | high
  | low
  deriving DecidableEq, Repr

/-- Where data writes land (R110). -/
inductive Region where
  | ddram
  | cgram
  | unknown
  deriving DecidableEq, Repr

/-- A delivered word (R110): `rs:byte`, tagged torn when its nibbles had different RS, or the 8-bit-mode word `rs:n/x`. -/
inductive Delivered where
  | full (w : CtrlWord) (torn : Bool)
  | eightBit (rs : Bool) (n : Nibble)
  deriving DecidableEq, Repr

/-- The reference observer's own state (R110). -/
structure Observer where
  mode   : Mode
  phase  : Phase
  hiNib  : Nibble
  hiRs   : Bool
  prevE  : Bool
  region : Region
  words  : List Delivered
  deriving DecidableEq, Repr

/-- The controller's contents, as far as the effects of 44_controller_commands.md determine them. `framed`, `resync`,
`configured`, `uploaded` and `draws` are the model's own (notes/assumptions/14.md, 15.md, 16.md, 33.md). -/
structure Panel where
  ddram      : Memory
  cgram      : Memory
  ac         : BitVec 7
  inc        : Bool
  shiftOn    : Bool
  display    : Bool
  cursor     : Bool
  blink      : Bool
  lines      : Bool
  font       : Bool
  shift      : Nat
  configured : Bool
  framed     : Bool
  resync     : Bool
  uploaded   : Bool
  draws      : Nat
  deriving DecidableEq, Repr

/-- The controller as the observer sees it. No rule of the block reads it (R109, R110). -/
structure Lcd where
  obs   : Observer
  panel : Panel
  deriving DecidableEq, Repr

/-- The whole machine. ROWOFF (R31) is hard-wired and stands in Operands.lean (notes/assumptions/9.md). -/
structure State where
  life     : Life
  geomRows : Byte
  geomCols : Byte
  devAddr  : HalfWord
  optClamp : Bool
  optFont  : Bool
  entry    : Byte
  dispctl  : Byte
  funcset  : Byte
  bl       : Bool
  expLatch : Byte
  seq      : Seq
  lcd      : Lcd
  timing   : Timing
  trace    : List Event
  result   : Option Result
  rx       : List Byte
  arrivals : List Arrival
  answers  : List Answer
  draws    : Nat
  deriving DecidableEq, Repr

/-- There is no fault: "Nothing in the block itself faults or gets stuck: every complete frame gives a result" (R258).
Every error is a `Result` in a next state (R240). -/
inductive Fault
  deriving DecidableEq, Repr

/-- Why a step has no move. Every refusal is safe: the model stops where it knows no behaviour. -/
inductive Refusal where
  /-- Raised by the arms of `exec` that have no meaning yet. Safe. -/
  | notModelled (mnemonic : String)
  /-- Raised by the acceptance of a request while another runs: "A request is not accepted while another is running"
  (R253), a requester duty whose breach has no move (R256, 93_implementation_defined.md U19). No step raises it, since a
  step accepts only when SEQ is idle. Safe (notes/assumptions/21.md). -/
  | requestWhileBusy
  /-- Raised by `step` on a byte with RW = 1 from another bus user: no WIRE row has it (R78), and reading the controller
  is out of scope (R4). Safe (notes/assumptions/12.md). -/
  | readWriteSet
  deriving DecidableEq, Repr

/-- The observer at power-on (R110), its draw for prevE taken as the typical power-up level of R32.
hiNib and hiRS are read only after a high nibble was held (R113). PRESUMED and DESIGN CHOICE, unsafe: notes/assumptions/6.md, 7.md. -/
def Observer.powerOn : Observer :=
  { mode := .eight, phase := .high, hiNib := 0, hiRs := false, prevE := true, region := .unknown, words := [] }

/-- The controller's contents at power-on: nothing is known of the memories, and the registers hold the HD44780's own
reset values. PRESUMED, unsafe: notes/assumptions/7.md. `configured` is false, so that a FUNCTION_SET with no
initialisation nibble before it is taken. DESIGN CHOICE, unsafe: notes/assumptions/34.md. -/
def Panel.powerOn : Panel :=
  { ddram := [], cgram := [], ac := 0, inc := true, shiftOn := false, display := false, cursor := false, blink := false,
    lines := false, font := false, shift := 0, configured := false, framed := false, resync := false,
    uploaded := false, draws := 0 }

/-- The machine right after power-on, "the block's only reset" (R270): LIFE Uninitialized and SEQ idle. The registers
that R20 leaves unspecified hold 0 (DESIGN CHOICE, unsafe: notes/assumptions/5.md) and EXP_LATCH holds FF
(PRESUMED, unsafe: notes/assumptions/6.md). No frame has been submitted. -/
def State.reset : State :=
  { life := .uninitialized, geomRows := 0, geomCols := 0, devAddr := 0, optClamp := false, optFont := false, entry := 0,
    dispctl := 0, funcset := 0, bl := false, expLatch := 0xFF, seq := .idle,
    lcd := { obs := Observer.powerOn, panel := Panel.powerOn }, timing := Timing.standard,
    trace := [], result := none, rx := [], arrivals := [], answers := [], draws := 0 }

end Sys2Proof.Machine
end

