-- ==== Sys2Proof/Machine/Memory.lean ====
section
/-! DEFINITION. The controller's memories (20_memory.md R51) as lists of cells in one canonical form. Nothing reads them
back in the hardware (R36); `Memory.read` is for claims. An address that is not listed holds a byte nothing is known of
(notes/assumptions/19.md). -/

namespace Sys2Proof.Machine

/-- The byte at an address, `none` where nothing is known of it. -/
def Memory.read : Memory → Nat → Option Byte
  | [], _ => none
  | (x, v) :: m, a => if x = a then some v else Memory.read m a

/-- The memory with the byte `v` at address `a`. -/
def Memory.write (a : Nat) (v : Byte) : Memory → Memory
  | [] => [(a, v)]
  | (x, u) :: m =>
    if a < x then (a, v) :: (x, u) :: m
    else if a = x then (a, v) :: m
    else (x, u) :: Memory.write a v m

/-- The first `n` addresses holding the byte `v`. -/
def Memory.fill (n : Nat) (v : Byte) : Memory := (List.range n).map fun a => (a, v)

/-- The memory with nothing known of the addresses `lost` tells. -/
def Memory.forget (lost : Nat → Bool) (m : Memory) : Memory := m.filter fun c => !lost c.1

/-- The canonical form: addresses strictly rising. -/
abbrev Memory.wf (m : Memory) : Prop := (m.map Prod.fst).Pairwise (· < ·)

/-- Every listed address exists: DDRAM has 128 (7 bits), CGRAM 64 (6 bits) (R51). -/
abbrev Memory.below (n : Nat) (m : Memory) : Prop := ∀ c ∈ m, c.1 < n

end Sys2Proof.Machine
end

