-- ==== Sys2Proof/Machine/Controller.lean ====
section
/-! DEFINITION. What a delivered word does to the controller (44_controller_commands.md R210 to R217, 40_protocol_driver.md
R114), one operation per word class. A word whose effect the spec calls "any value" (R258) is recorded, and every content
it could touch becomes a free value: registers from Config's opaque constants, memories unknown. -/

namespace Sys2Proof.Machine

/-- Any value: nothing is known of the contents afterwards (R258, 93_implementation_defined.md U12 to U14).
DESIGN CHOICE, safe: notes/assumptions/14.md. -/
def panelAny (p : Panel) : Panel :=
  { p with
    ddram := [], cgram := [], ac := Config.freeAddress p.draws, inc := Config.freeFlag p.draws 0,
    shiftOn := Config.freeFlag p.draws 1, display := Config.freeFlag p.draws 2, cursor := Config.freeFlag p.draws 3,
    blink := Config.freeFlag p.draws 4, lines := Config.freeFlag p.draws 5, font := Config.freeFlag p.draws 6,
    shift := Config.freeShift p.draws, draws := p.draws + 1 }

/-- CLEAR_DISPLAY (R210): spaces in all of DDRAM, address 0, I/D = 1. R210 does not name the display shift, and the value it
has afterwards is free. DESIGN CHOICE, safe: notes/assumptions/18.md. -/
def panelClear (p : Panel) : Panel :=
  { p with
    ddram := Memory.fill 128 0x20, ac := 0, inc := true, shift := Config.freeShift p.draws, uploaded := false,
    draws := p.draws + 1 }

/-- RETURN_HOME (R211): address 0, the display shift undone, DDRAM unchanged. -/
def panelHome (p : Panel) : Panel := { p with ac := 0, shift := 0, uploaded := false }

/-- ENTRY_MODE_SET (R212). -/
def panelEntry (inc shiftOn : Bool) (p : Panel) : Panel := { p with inc := inc, shiftOn := shiftOn }

/-- DISPLAY_CONTROL (R213). -/
def panelDisplay (d c b : Bool) (p : Panel) : Panel := { p with display := d, cursor := c, blink := b }

/-- The address counter is set (R215, R216): what follows is no longer written where an upload left the pointer (R276). -/
def panelAddress (a : BitVec 7) (p : Panel) : Panel := { p with ac := a, uploaded := false }

/-- The lines and font bits after a FUNCTION_SET whose low data lines are not driven (R82, R112), or after the word
`0:33` that two initialisation strobes of INIT make in 4-bit mode (R116): free. The memories keep their contents
(43_character_generator.md R204). DEDUCED, safe: notes/assumptions/16.md. -/
def panelResync (p : Panel) : Panel :=
  { p with
    lines := Config.freeFlag p.draws 5, font := Config.freeFlag p.draws 6, draws := p.draws + 1 }

/-- FUNCTION_SET (R214): lines and font, taken once after the initialisation nibbles. The values no INIT sends
(R86: DL = 1, don't-care bits, N with F) and a change of N or F later have any value as their effect (U13), the word
`0:33` among them, except where INIT's own strobes make it (R116). Such a word counts as taken, so a raw FUNCTION_SET with
DL = 1 does not reopen initialisation: only INIT's nibbles do. DEDUCED, safe: notes/assumptions/16.md. One that
comes after power-on with no initialisation nibble before it is taken as part of initialisation. DESIGN CHOICE, unsafe:
notes/assumptions/34.md. -/
def panelFunction (dl n f : Bool) (x : BitVec 2) (p : Panel) : Panel :=
  if dl then
    if p.resync && !n && !f && x = 3 then { panelResync p with configured := false }
    else { panelAny p with configured := true }
  else if x ≠ 0 ∨ (n && f) = true then { panelAny p with configured := true }
  else if p.configured && (n != p.lines || f != p.font) then panelAny p
  else { p with lines := n, font := f, configured := true }

/-- Rows 0 to 2 of the slot after `slot` (R205): three CGRAM addresses, in slot 0 where `slot` is 7. -/
def isSpillCell (slot : BitVec 3) (a : Nat) : Bool := a / 8 == (slot.toNat + 1) % 8 && decide (a % 8 < 3)

/-- After an 11-byte upload to `slot`, rows 0 to 2 of the next slot hold any value (R205, U17). For slot 7 the last three
bytes "wrap or fall outside": slot 0's rows are unknown, and where the counter sends the bytes is free (panelAdvance).
DEDUCED, safe: notes/assumptions/36.md. -/
def panelSpill (slot : BitVec 3) (p : Panel) : Panel := { p with cgram := Memory.forget (isSpillCell slot) p.cgram }

/-- An UPLOAD_GLYPH has ended: the address pointer stands in CGRAM where it left it (R203). -/
def panelUploaded (slot : BitVec 3) (long : Bool) (p : Panel) : Panel :=
  { if long then panelSpill slot p else p with uploaded := true }

/-- The number of addresses of the memory data writes land in (R51); 0 where that memory is not known. -/
def addressCount : Region → Nat
  | .ddram => 128
  | .cgram => 64
  | .unknown => 0

/-- The address counter moves by one as I/D says (R212, 95_test_vectors.md). Where that leaves the memory's addresses
the spec states no value (R205), and it is free. DESIGN CHOICE, safe: notes/assumptions/17.md. -/
def panelAdvance (r : Region) (p : Panel) : Panel :=
  if p.inc then
    if p.ac.toNat + 1 < addressCount r then { p with ac := p.ac + 1 }
    else { p with ac := Config.freeAddress p.draws, draws := p.draws + 1 }
  else
    if 0 < p.ac.toNat ∧ p.ac.toNat < addressCount r then { p with ac := p.ac - 1 }
    else { p with ac := Config.freeAddress p.draws, draws := p.draws + 1 }

/-- The data byte lands at the address counter in the current memory (R217). Past CGRAM's last address it "falls outside"
(R205); where the memory is not known, nothing is known of either one afterwards. Written where an upload left the address
pointer, without repositioning (R203, R276), it leaves any value in CGRAM (93_implementation_defined.md U7). DEDUCED, safe:
notes/assumptions/33.md. -/
def panelStore (r : Region) (d : Byte) (p : Panel) : Panel :=
  match r with
  | .ddram => { p with ddram := Memory.write p.ac.toNat d p.ddram }
  | .cgram =>
    if p.uploaded then { p with cgram := [] }
    else if p.ac.toNat < 64 then { p with cgram := Memory.write p.ac.toNat d p.cgram }
    else p
  | .unknown => { p with ddram := [], cgram := [] }

/-- "shifts the display if S = 1" (R217): by how much and which way is not stated, so the shift is free.
DESIGN CHOICE, safe: notes/assumptions/18.md. -/
def panelShift (p : Panel) : Panel :=
  if p.shiftOn then { p with shift := Config.freeShift p.draws, draws := p.draws + 1 } else p

/-- WRITE_DATA (R217): the byte is written, then the counter moves, then the display may shift. -/
def panelWrite (r : Region) (d : Byte) (p : Panel) : Panel := panelShift (panelAdvance r (panelStore r d p))

/-- A word is delivered (R113): recorded with its torn tag, the region and the mode updated, and its effect applied to the
contents. `trusted` is false for a torn word and for the words of a controller that is out of step, whose effect
is any value (R258; notes/assumptions/14.md, 15.md, 20.md). -/
def lcdApply (w : CtrlWord) (torn trusted : Bool) (region : Region) (mode : Mode) (effect : Panel → Panel) (l : Lcd) : Lcd :=
  { obs := { l.obs with words := l.obs.words ++ [.full w torn], region := region, mode := mode },
    panel := if trusted then effect l.panel else panelAny l.panel }

/-- CLEAR_DISPLAY delivered (R210, R114). -/
def lcdClearDisplay (w : CtrlWord) (torn trusted : Bool) (l : Lcd) : Lcd :=
  lcdApply w torn trusted .ddram l.obs.mode panelClear l

/-- RETURN_HOME delivered (R211, R114); with its don't-care bit set its effect is any value (R86, U13). -/
def lcdReturnHome (x : Bool) (w : CtrlWord) (torn trusted : Bool) (l : Lcd) : Lcd :=
  lcdApply w torn trusted .ddram l.obs.mode (if x then panelAny else panelHome) l

/-- ENTRY_MODE_SET delivered (R212). -/
def lcdEntryModeSet (inc shift : Bool) (w : CtrlWord) (torn trusted : Bool) (l : Lcd) : Lcd :=
  lcdApply w torn trusted l.obs.region l.obs.mode (panelEntry inc shift) l

/-- DISPLAY_CONTROL delivered (R213). -/
def lcdDisplayControl (d c b : Bool) (w : CtrlWord) (torn trusted : Bool) (l : Lcd) : Lcd :=
  lcdApply w torn trusted l.obs.region l.obs.mode (panelDisplay d c b) l

/-- FUNCTION_SET delivered (R214): it fixes the interface width (R113: DL = 1 is 8-bit mode), and an 8-bit interface
holds no nibble (R112). DL = 1 puts sender and controller out of step until the next INIT (R146), unless INIT's own strobes
made the word. DEDUCED, safe: notes/assumptions/32.md. -/
def lcdFunctionSet (dl n f : Bool) (x : BitVec 2) (w : CtrlWord) (torn trusted : Bool) (l : Lcd) : Lcd :=
  lcdApply w torn trusted l.obs.region (if dl then .eight else .four) (panelFunction dl n f x)
    { obs := { l.obs with phase := if dl then .high else l.obs.phase },
      panel := { l.panel with framed := l.panel.framed && (!dl || l.panel.resync) } }

/-- SET_CGRAM_ADDR delivered (R215, R114). -/
def lcdSetCgramAddr (a : BitVec 6) (w : CtrlWord) (torn trusted : Bool) (l : Lcd) : Lcd :=
  lcdApply w torn trusted .cgram l.obs.mode (panelAddress (BitVec.zeroExtend 7 a)) l

/-- SET_DDRAM_ADDR delivered (R216, R114). -/
def lcdSetDdramAddr (a : BitVec 7) (w : CtrlWord) (torn trusted : Bool) (l : Lcd) : Lcd :=
  lcdApply w torn trusted .ddram l.obs.mode (panelAddress a) l

/-- CURSOR_DISPLAY_SHIFT delivered: recorded, and its effect is any value (R86, R258). -/
def lcdCursorDisplayShift (w : CtrlWord) (torn trusted : Bool) (l : Lcd) : Lcd :=
  lcdApply w torn trusted l.obs.region l.obs.mode panelAny l

/-- The word 0:00 delivered: recorded, and its effect is any value (R86, R258). -/
def lcdNoCommand00 (w : CtrlWord) (torn trusted : Bool) (l : Lcd) : Lcd :=
  lcdApply w torn trusted l.obs.region l.obs.mode panelAny l

/-- WRITE_DATA delivered (R217, R114). -/
def lcdWriteData (d : Byte) (w : CtrlWord) (torn trusted : Bool) (l : Lcd) : Lcd :=
  lcdApply w torn trusted l.obs.region l.obs.mode (panelWrite l.obs.region d) l

/-- The controller takes a word, by its class (R80, R113, R114). -/
def lcdDeliver (w : CtrlWord) (torn trusted : Bool) (l : Lcd) : Lcd :=
  match decodeWord w with
  | .clearDisplay => lcdClearDisplay w torn trusted l
  | .returnHome x => lcdReturnHome x w torn trusted l
  | .entryModeSet inc shift => lcdEntryModeSet inc shift w torn trusted l
  | .displayControl d c b => lcdDisplayControl d c b w torn trusted l
  | .functionSet dl n f x => lcdFunctionSet dl n f x w torn trusted l
  | .setCgramAddr a => lcdSetCgramAddr a w torn trusted l
  | .setDdramAddr a => lcdSetDdramAddr a w torn trusted l
  | .cursorDisplayShift _ _ _ => lcdCursorDisplayShift w torn trusted l
  | .noCommand00 => lcdNoCommand00 w torn trusted l
  | .writeData d => lcdWriteData d w torn trusted l
  -- the other layers' instructions: `decodeWord` gives none of them
  | .init _ _ _ _ _ _ | .clear | .home | .setCursor _ _ | .print _ | .showText _ _ _ _ | .setBacklight _ | .cursorOn
  | .cursorOff | .blinkOn | .blinkOff | .displayOn | .displayOff | .leftToRight | .rightToLeft | .autoscroll
  | .noAutoscroll | .uploadGlyph _ _ | .writeByte _ _ | .illegalRequest _ | .wireELow _ _ _ | .wireEHigh _ _ _
  | .initNibble8bit | .initNibble4bit => l

end Sys2Proof.Machine
end

