-- ==== Sys2Proof/Machine/Observer.lean ====
section
/-! DEFINITION. The reference observer (40_protocol_driver.md R110 to R114): how the controller turns the bytes on the
expander's lines into words. -/

namespace Sys2Proof.Machine

/-- Whether the nibble is a FUNCTION_SET in 8-bit mode: rs = 0 and n[3:1] = 0b001 (R112). -/
def isFunctionNibble (n : Nibble) (rs : Bool) : Bool := !rs && n.extractLsb' 1 3 == 0b001#3

/-- The region an 8-bit-mode nibble tells (R112): n[3] = 1 is SET_DDRAM_ADDR, n[3:2] = 0b01 is SET_CGRAM_ADDR. -/
def eightBitRegion (n : Nibble) (rs : Bool) (r : Region) : Region :=
  if rs then r
  else if n.getLsbD 3 then .ddram
  else if n.extractLsb' 2 2 == 0b01#2 then .cgram
  else r

/-- A nibble latched in 8-bit mode (R112): the word `rs:n/x` with its low data lines undriven. A FUNCTION_SET sets the
mode, whoever sent it. DL = 0 brings sender and controller into step only where INIT sends it (R219): after a raw
FUNCTION_SET with DL = 1 "every later byte is misframed until the next INIT" (R146), so a HOME's nibble 0x2 sets 4-bit mode
as R112 says, but the words after it are not trusted. DEDUCED, safe: notes/assumptions/15.md, 32.md. Any other nibble
leaves contents that depend on the undriven lines: any value. -/
def lcdLatchEight (n : Nibble) (rs : Bool) (l : Lcd) : Lcd :=
  let words := l.obs.words ++ [.eightBit rs n]
  if isFunctionNibble n rs then
    let p := if l.panel.framed then panelResync l.panel else panelAny l.panel
    { obs := { l.obs with words := words, mode := if n.getLsbD 0 then .eight else .four, phase := .high },
      panel := { p with
        configured := p.configured && !p.resync, framed := if n.getLsbD 0 then l.panel.framed else l.panel.resync } }
  else
    { obs := { l.obs with words := words, region := eightBitRegion n rs l.obs.region }, panel := panelAny l.panel }

/-- A nibble latched in 4-bit mode (R113): held, or the second half of a word. -/
def lcdLatchFour (n : Nibble) (rs : Bool) (l : Lcd) : Lcd :=
  match l.obs.phase with
  | .high => { l with obs := { l.obs with hiNib := n, hiRs := rs, phase := .low } }
  | .low =>
    let torn := l.obs.hiRs != rs
    lcdDeliver (BitVec.ofBool rs ++ l.obs.hiNib ++ n) torn (l.panel.framed && !torn)
      { l with obs := { l.obs with phase := .high } }

/-- The controller latches a nibble (R112, R113). -/
def lcdLatch (n : Nibble) (rs : Bool) (l : Lcd) : Lcd :=
  match l.obs.mode with
  | .eight => lcdLatchEight n rs l
  | .four => lcdLatchFour n rs l

/-- An initialisation nibble reaches the controller (R218, R219), one that INIT alone emits: an 8-bit interface takes it as
part of initialisation, so that the next FUNCTION_SET sets N and F (R214). The nibble 0x2 makes it 4-bit, and "from then on
each byte takes two strobes, high nibble first", so what follows is in step. DEDUCED, unsafe: notes/assumptions/15.md,
16.md. -/
def lcdInitNibble (n : Nibble) (l : Lcd) : Lcd :=
  let l' := lcdLatch n false l
  match l.obs.mode with
  | .eight => { l' with panel := { l'.panel with configured := false, framed := l'.panel.framed || n == 0x2 } }
  | .four => l'

/-- `observe(b)` (R111): a falling E latches b[7:4] with RS = b[0]; prevE becomes b[2]. -/
def lcdObserve (b : Byte) (l : Lcd) : Lcd :=
  let l' := if l.obs.prevE && !b.getLsbD 2 then lcdLatch (b.extractLsb' 4 4) (b.getLsbD 0) l else l
  { l' with obs := { l'.obs with prevE := b.getLsbD 2 } }

/-- INIT begins: a word `0:33` is its own strobes' (notes/assumptions/16.md). Where a nibble is held, the first strobe
completes a garbage word: "Its effect on the controller is any value" (R116, 93_implementation_defined.md U14), so the
words are not trusted until the fourth strobe. DEDUCED, safe: notes/assumptions/15.md. -/
def lcdResyncStart (l : Lcd) : Lcd :=
  { l with panel := { l.panel with
    resync := true, framed := l.panel.framed && !(l.obs.mode == .four && l.obs.phase == .low) } }

/-- INIT has ended: a word `0:33` is a raw one again (R86, U13; notes/assumptions/16.md). -/
def lcdResyncEnd (l : Lcd) : Lcd := { l with panel := { l.panel with resync := false } }

/-- What the end of a request does to what is known of the controller. -/
def lcdEnding (e : Ending) (l : Lcd) : Lcd :=
  match e with
  | .plain => l
  | .init => lcdResyncEnd l
  | .glyph slot long => { l with panel := panelUploaded slot long l.panel }

/-- After a BUS_ERROR that left a nibble held or E high, "any value for the controller" (93_implementation_defined.md U5),
until an initialisation brings it into step again (R278). DEDUCED, safe: notes/assumptions/15.md. -/
def lcdAbort (l : Lcd) : Lcd :=
  if l.obs.phase = .low ∨ l.obs.prevE = true then
    { l with panel := { panelAny l.panel with framed := false } }
  else l

end Sys2Proof.Machine
end

