-- ==== Sys2Proof/Machine/Operands.lean ====
section
/-! DEFINITION. Operand assembly (30_encoding.md R79, R81, R83, R84, R85) and the hard-wired row-offset table (R31). -/

namespace Sys2Proof.Machine

/-- `W(n, rs, e) = (n & 0xF0) | (BL << 3) | (e << 2) | (0 << 1) | rs` (R79). -/
def wireByte (bl : Bool) (n : Byte) (rs e : Bool) : Byte :=
  (n &&& 0xF0) ||| (bitByte bl <<< 3) ||| (bitByte e <<< 2) ||| bitByte rs

/-- `hi(v) = v & 0xF0` (R85). -/
def hiNibble (v : Byte) : Byte := v &&& 0xF0

/-- `lo(v) = (v << 4) & 0xF0` (R85). -/
def loNibble (v : Byte) : Byte := (v <<< 4) &&& 0xF0

/-- ROWOFF (R31), the DDRAM address of each row's first cell. No request reads an entry past the fourth: the geometry
has at most four rows (R22); such an entry is given as 0. DESIGN CHOICE, safe: notes/assumptions/9.md. -/
def rowOff (row : Nat) : Byte :=
  match row with
  | 0 => 0x00
  | 1 => 0x40
  | 2 => 0x14
  | 3 => 0x54
  | _ => 0x00

/-- `ddaddr = (ROWOFF[row] + col) & 0x7F`, a u8 sum (R83). -/
def ddAddr (row col : Byte) : Byte := (rowOff row.toNat + col) &&& 0x7F

/-- `cgaddr = (slot & 0x07) << 3`; slot bits 6:3 take no part (R84). -/
def cgAddr (slot : BitVec 7) : Byte := (BitVec.zeroExtend 8 slot &&& 0x07) <<< 3

/-- The 9-bit controller word `rs:v` (R8). -/
def ctrlWord (rs : Bool) (v : Byte) : CtrlWord := BitVec.ofBool rs ++ v

end Sys2Proof.Machine
end

