-- ==== Sys2Proof/Machine/Ops.lean ====
section
/-! DEFINITION. The block's shared operations: the transport (40_protocol_driver.md R100), the micro-ops and their macros
(R100 to R104), the sequencer (10_state.md R33), acceptance (41_display_controller.md R130), and how a request ends
(60_exceptions.md R240, R247). -/

namespace Sys2Proof.Machine

/-! ### The expander port and the transport -/

/-- A byte reaches the expander: EXP_LATCH takes all eight bits at once (R32, R53) and the observer sees it (R111). -/
def reach (b : Byte) (s : State) : State := { s with expLatch := b, lcd := lcdObserve b s.lcd }

/-- The transport's answer to the next Tx (R100): the environment's next one, or a free value. -/
def nextAnswer (s : State) : Answer :=
  match s.answers with
  | a :: _ => a
  | [] => Config.freeAnswer s.draws

/-- The answer is used up. -/
def consumeAnswer (s : State) : State :=
  match s.answers with
  | _ :: rest => { s with answers := rest }
  | [] => { s with draws := s.draws + 1 }

/-! ### Micro-ops -/

/-- A micro-op completed, or its Tx was answered Err with this error value. -/
inductive Progress where
  | going (s : State)
  | failed (info : BusErrorInfo) (s : State)
  deriving DecidableEq, Repr

/-- `Tx(b)` (R100): the event is traced; on Ok the byte reaches the port; on Err it reaches the port or not, as the
answer's draw says (92_eei_decisions.md D12), and the request fails. -/
def transmit (b : Byte) (s : State) : Progress :=
  let a := nextAnswer s
  let s1 := { consumeAnswer s with trace := s.trace ++ [.tx s.devAddr b a] }
  match a with
  | .ok => .going (reach b s1)
  | .err info took => .failed info (if took then reach b s1 else s1)

/-- One micro-op. BL is sampled when the Tx is issued (R79, R105); a Delay is an event and nothing else (R101). -/
def issue (op : Op) (s : State) : Progress :=
  match op with
  | .tx n rs e => transmit (wireByte s.bl n rs e) s
  | .delay t => .going { s with trace := s.trace ++ [.delay t] }

/-- The micro-ops in order, up to the first failed Tx (R14, R60, R107). -/
def runOps : List Op → State → Progress
  | [], s => .going s
  | op :: ops, s =>
    match issue op s with
    | .going s' => runOps ops s'
    | .failed info s' => .failed info s'

/-- `NIB(n, rs, settle)` (R102): no delay between the first two transactions (92_eei_decisions.md D31). -/
def nibOps (t : Timing) (n : Byte) (rs : Bool) (settle : Nat) : List Op :=
  [.tx n rs false, .tx n rs true, .delay t.tEnableHold, .tx n rs false, .delay settle]

/-- `BYTE(v, rs)` (R103): high nibble first (R55). -/
def byteOps (t : Timing) (v : Byte) (rs : Bool) : List Op :=
  nibOps t (hiNibble v) rs t.tSettle ++ nibOps t (loNibble v) rs t.tSettle

/-- `BLPUSH()` (R104, 90_conflicts.md C1): one transaction, no enable pulse, no delay. -/
def blPushOps : List Op := [.tx 0x00 false false]

/-- Data bytes in list order (R57, R179). -/
def dataOps (t : Timing) (data : List Byte) : List Op := data.flatMap fun d => byteOps t d true

/-! ### How a request ends -/

/-- The numeric code of a result (R240; 92_eei_decisions.md D3). -/
def resultCode (r : Result) : Nat :=
  match r with
  | .ok => 0
  | .busError _ => 1
  | .invalidPosition _ _ _ _ => 2
  | .uninitialized => 3
  | .invalidGeometry _ _ => 4
  | .illegalRequest _ => 5

/-- The encoding of LIFE (R21). -/
def lifeCode (l : Life) : Nat :=
  match l with
  | .uninitialized => 0
  | .ready => 1

/-- The request returns its result, and SEQ is idle (R240, R247). There is nothing to save and no handler: the machine's
one form of taking an exception. There is no return from it (R248). -/
def endRequest (r : Result) (s : State) : State := { s with seq := .idle, result := some r }

/-- LIFE at the end of a request that completed: INIT makes it Ready (R21, R131). -/
def lifeEnding (e : Ending) (l : Life) : Life :=
  match e with
  | .init => .ready
  | .plain | .glyph _ _ => l

/-- The micro-ops completed, or the first failed Tx ended the request with BUS_ERROR (R241). After an error no register is
restored (R247). -/
def finish (e : Ending) : Progress → State
  | .going s => endRequest .ok { s with life := lifeEnding e s.life, lcd := lcdEnding e s.lcd }
  | .failed info s => endRequest (.busError info) { s with lcd := lcdEnding e (lcdResyncEnd (lcdAbort s.lcd)) }

/-! ### The sequencer -/

/-- SEQ takes the micro-ops of the accepted request (R33, R130). -/
def startSeq (e : Ending) (ops : List Op) (s : State) : State := { s with seq := .busy ops 0 e }

/-- A whole request as one step (R33: "A model may also run a whole request as one atomic step"). -/
def perform (e : Ending) (ops : List Op) (s : State) : State := finish e (runOps ops (startSeq e ops s))

/-- One micro-step of a busy sequencer (R33): it issues `ops[k]` and adds one to k; at the end the request completes; a
failed Tx ends it at once. -/
def microStep (s : State) : State :=
  match s.seq with
  | .idle => s
  | .busy ops k e =>
    match ops[k]? with
    | none => finish e (.going s)
    | some op =>
      match issue op s with
      | .going s' => { s' with seq := .busy ops (k + 1) e }
      | .failed info s' => finish e (.failed info s')

/-! ### Acceptance -/

/-- What a request, an arrival and an instruction answer. -/
abbrev StepOutcome := Host.Outcome State Fault Refusal

/-- A complete frame meets an idle sequencer, and its trace begins (R11, R253). -/
def acceptIdle (s : State) (body : State → StepOutcome) : StepOutcome :=
  match s.seq with
  | .idle => body { s with trace := [], result := none }
  | .busy _ _ _ => .refused .requestWhileBusy

/-- A request other than INIT: UNINITIALIZED before any register write and any Tx unless LIFE is Ready (R130, R243). -/
def acceptReady (s : State) (body : State → StepOutcome) : StepOutcome :=
  acceptIdle s fun s =>
    match s.life with
    | .ready => body s
    | .uninitialized => .next (endRequest .uninitialized s)

/-- INVALID_POSITION with the position asked for and the valid range (R242). -/
def invalidPosition (row col : Byte) (s : State) : StepOutcome :=
  .next (endRequest (.invalidPosition row col s.geomRows s.geomCols) s)

end Sys2Proof.Machine
end

