-- ==== Sys2Proof/Machine/Downstream.lean ====
section
/-! DEFINITION. The instructions of the three downstream layers, each executed by the agent it reaches: an expander byte by
the port (30_encoding.md R77), a controller word by the controller (44_controller_commands.md), an initialisation nibble
by the controller's latch (30_encoding.md R82). The block's registers take no part.
DESIGN CHOICE, unsafe: notes/assumptions/11.md. -/

namespace Sys2Proof.Machine

/-! ### WIRE -/

/-- WIRE_E_LOW (R77): the byte reaches the port; if E was high, the controller latches its nibble (R54, R111). -/
def execWireELow (d : Nibble) (bl rs : Bool) (s : State) : StepOutcome := .next (reach (wireBits d bl false rs) s)

/-- WIRE_E_HIGH (R77): the byte reaches the port and E is high. -/
def execWireEHigh (d : Nibble) (bl rs : Bool) (s : State) : StepOutcome := .next (reach (wireBits d bl true rs) s)

/-! ### CMD -/

/-- The nine bits of a CMD instruction. -/
def wordOf (i : Instr) : CtrlWord :=
  match encode i with
  | .word w => w
  | .frame _ | .wire _ | .nibble _ => 0

/-- The controller takes a whole, untorn word, whatever its interface holds: a nibble held stays held (but for DL = 1, which
sets an 8-bit interface), an 8-bit interface takes it too, and its effect is trusted even where the nibbles are out of step.
The spec forms words by latching alone (R112, R113) and gives a CMD instruction only its effect (R210 to R217). DESIGN
CHOICE, unsafe: notes/assumptions/35.md. -/
def deliverTo (effect : CtrlWord → Bool → Bool → Lcd → Lcd) (i : Instr) (s : State) : StepOutcome :=
  .next { s with lcd := effect (wordOf i) false true s.lcd }

/-- CLEAR_DISPLAY (R210). -/
def execClearDisplay (s : State) : StepOutcome := deliverTo lcdClearDisplay .clearDisplay s

/-- RETURN_HOME (R211). -/
def execReturnHome (x : Bool) (s : State) : StepOutcome := deliverTo (lcdReturnHome x) (.returnHome x) s

/-- ENTRY_MODE_SET (R212). -/
def execEntryModeSet (inc shift : Bool) (s : State) : StepOutcome :=
  deliverTo (lcdEntryModeSet inc shift) (.entryModeSet inc shift) s

/-- DISPLAY_CONTROL (R213). -/
def execDisplayControl (d c b : Bool) (s : State) : StepOutcome :=
  deliverTo (lcdDisplayControl d c b) (.displayControl d c b) s

/-- FUNCTION_SET (R214). -/
def execFunctionSet (dl n f : Bool) (x : BitVec 2) (s : State) : StepOutcome :=
  deliverTo (lcdFunctionSet dl n f x) (.functionSet dl n f x) s

/-- SET_CGRAM_ADDR (R215). -/
def execSetCgramAddr (a : BitVec 6) (s : State) : StepOutcome := deliverTo (lcdSetCgramAddr a) (.setCgramAddr a) s

/-- SET_DDRAM_ADDR (R216). -/
def execSetDdramAddr (a : BitVec 7) (s : State) : StepOutcome := deliverTo (lcdSetDdramAddr a) (.setDdramAddr a) s

/-- CURSOR_DISPLAY_SHIFT (R86, R258): recorded, any value as its effect. -/
def execCursorDisplayShift (sc rl : Bool) (x : BitVec 2) (s : State) : StepOutcome :=
  deliverTo lcdCursorDisplayShift (.cursorDisplayShift sc rl x) s

/-- NO_COMMAND_00 (R86, R258): recorded, any value as its effect. -/
def execNoCommand00 (s : State) : StepOutcome := deliverTo lcdNoCommand00 .noCommand00 s

/-- WRITE_DATA (R217). -/
def execWriteData (d : Byte) (s : State) : StepOutcome := deliverTo (lcdWriteData d) (.writeData d) s

/-! ### NIB -/

/-- INIT_NIBBLE_8BIT (R218): the nibble 0x3 with RS = 0 is latched. -/
def execInitNibble8bit (s : State) : StepOutcome := .next { s with lcd := lcdInitNibble 0x3 s.lcd }

/-- INIT_NIBBLE_4BIT (R219): the nibble 0x2 with RS = 0 is latched. -/
def execInitNibble4bit (s : State) : StepOutcome := .next { s with lcd := lcdInitNibble 0x2 s.lcd }

end Sys2Proof.Machine
end

