-- ==== Sys2Proof/Machine/Flags.lean ====
section
/-! DEFINITION. The shadow flag registers' computations (10_state.md R27 to R29, 41_display_controller.md R131, R135 to
R144) and the command bytes built from them (30_encoding.md R81). -/

namespace Sys2Proof.Machine

/-- ENTRY.ID, bit 1 (R27). -/
def entryId : Byte := 0x02

/-- ENTRY.S, bit 0 (R27). -/
def entryS : Byte := 0x01

/-- DISPCTL.D, bit 2 (R28). -/
def dispD : Byte := 0x04

/-- DISPCTL.C, bit 1 (R28). -/
def dispC : Byte := 0x02

/-- DISPCTL.B, bit 0 (R28). -/
def dispB : Byte := 0x01

/-- `REG | mask`: a flag request sets its named bit (90_conflicts.md C3). -/
def setFlag (mask reg : Byte) : Byte := reg ||| mask

/-- `REG & ~mask`: a flag request clears its named bit. -/
def clearFlag (mask reg : Byte) : Byte := reg &&& ~~~mask

/-- FUNCSET as INIT loads it (R29, R131): DL = 0, N = (rows > 1), F = font5x10 and rows = 1. -/
def funcsetOf (rows : Byte) (font : Bool) : Byte :=
  (bitByte (decide (1 < rows.toNat)) <<< 3) ||| (bitByte (font && rows == 1) <<< 2)

/-- DISPCTL as INIT loads it (R28): display on, cursor off, blink off. -/
def dispctlOfInit : Byte := 0x04

/-- ENTRY as INIT loads it (R27): left to right, no autoscroll. -/
def entryOfInit : Byte := 0x02

/-- `0x04 | ENTRY` (R81). -/
def entryCommand (entry : Byte) : Byte := 0x04 ||| entry

/-- `0x08 | DISPCTL` (R81). -/
def displayCommand (dispctl : Byte) : Byte := 0x08 ||| dispctl

/-- `0x20 | FUNCSET` (R81). -/
def functionCommand (funcset : Byte) : Byte := 0x20 ||| funcset

/-- `0x40 | cgaddr` (R81). -/
def cgramCommand (cgaddr : Byte) : Byte := 0x40 ||| cgaddr

/-- `0x80 | ddaddr` (R81). -/
def ddramCommand (ddaddr : Byte) : Byte := 0x80 ||| ddaddr

/-- Clear (R81). -/
def clearCommand : Byte := 0x01

/-- Home (R81). -/
def homeCommand : Byte := 0x02

end Sys2Proof.Machine
end

