-- ==== Sys2Proof/Machine/Display.lean ====
section
/-! DEFINITION. The display controller's requests (41_display_controller.md R131 to R146) and the illegal request
(30_encoding.md R75). -/

namespace Sys2Proof.Machine

/-! ### INIT (R131) -/

/-- rows in {1, 2, 4} and columns in 1..20 (R22, R23). -/
def geometryLegal (rows cols : Byte) : Bool :=
  (rows == 1 || rows == 2 || rows == 4) && decide (1 ≤ cols.toNat) && decide (cols.toNat ≤ 20)

/-- The registers INIT writes before its first micro-op (R131, R147). -/
def initRegisters (rows cols : Byte) (addr : HalfWord) (clamp font backlight : Bool) (s : State) : State :=
  { s with
    life := .uninitialized, geomRows := rows, geomCols := cols, devAddr := addr, optClamp := clamp, optFont := font,
    bl := backlight, funcset := funcsetOf rows font, dispctl := dispctlOfInit, entry := entryOfInit,
    lcd := lcdResyncStart s.lcd }

/-- The cold-start sequence (R131): the power-on wait, four initialisation strobes, then FUNCTION_SET, DISPLAY_CONTROL,
ENTRY_MODE, Clear and Home. -/
def initOps (t : Timing) (funcset dispctl entry : Byte) : List Op :=
  [.delay t.tPowerOn]
    ++ nibOps t 0x30 false t.tInitFirst
    ++ nibOps t 0x30 false t.tInitNext
    ++ nibOps t 0x30 false t.tInitNext
    ++ nibOps t 0x20 false t.tInitNext
    ++ byteOps t (functionCommand funcset) false
    ++ byteOps t (displayCommand dispctl) false
    ++ byteOps t (entryCommand entry) false
    ++ byteOps t clearCommand false ++ [.delay t.tClearHome]
    ++ byteOps t homeCommand false ++ [.delay t.tClearHome]

/-- INIT (R131): accepted whatever LIFE is; an illegal geometry changes nothing (R244). -/
def execInit (rows cols : Byte) (addr : HalfWord) (clamp font backlight : Bool) (s : State) : StepOutcome :=
  acceptIdle s fun s =>
    if geometryLegal rows cols then
      let s1 := initRegisters rows cols addr clamp font backlight s
      .next (perform .init (initOps s1.timing s1.funcset s1.dispctl s1.entry) s1)
    else .next (endRequest (.invalidGeometry rows cols) s)

/-! ### Clear, Home and the cursor -/

/-- CLEAR (R132). -/
def execClear (s : State) : StepOutcome :=
  acceptReady s fun s => .next (perform .plain (byteOps s.timing clearCommand false ++ [.delay s.timing.tClearHome]) s)

/-- HOME (R133). -/
def execHome (s : State) : StepOutcome :=
  acceptReady s fun s => .next (perform .plain (byteOps s.timing homeCommand false ++ [.delay s.timing.tClearHome]) s)

/-- CURSOR_BODY (R134), which SHOW_TEXT shares. -/
def cursorOps (t : Timing) (row col : Byte) : List Op := byteOps t (ddramCommand (ddAddr row col)) false

/-- SET_CURSOR (R134): the column is checked first, then the row, which OPT_CLAMP clamps (R25). -/
def execSetCursor (row col : Byte) (s : State) : StepOutcome :=
  acceptReady s fun s =>
    if s.geomCols.toNat ≤ col.toNat then invalidPosition row col s
    else if s.geomRows.toNat ≤ row.toNat then
      if s.optClamp then .next (perform .plain (cursorOps s.timing (s.geomRows - 1) col) s)
      else invalidPosition row col s
    else .next (perform .plain (cursorOps s.timing row col) s)

/-! ### The ten flag requests: the register is written, then its command is sent (R147) -/

/-- DISPCTL is written and DISPLAY_CONTROL sent. -/
def sendDisplay (dispctl : Byte) (s : State) : State :=
  perform .plain (byteOps s.timing (displayCommand dispctl) false) { s with dispctl := dispctl }

/-- ENTRY is written and ENTRY_MODE sent. -/
def sendEntry (entry : Byte) (s : State) : State :=
  perform .plain (byteOps s.timing (entryCommand entry) false) { s with entry := entry }

/-- CURSOR_ON (R135). -/
def execCursorOn (s : State) : StepOutcome :=
  acceptReady s fun s => .next (sendDisplay (setFlag dispC s.dispctl) s)

/-- CURSOR_OFF (R136). -/
def execCursorOff (s : State) : StepOutcome :=
  acceptReady s fun s => .next (sendDisplay (clearFlag dispC s.dispctl) s)

/-- BLINK_ON (R137). -/
def execBlinkOn (s : State) : StepOutcome :=
  acceptReady s fun s => .next (sendDisplay (setFlag dispB s.dispctl) s)

/-- BLINK_OFF (R138). -/
def execBlinkOff (s : State) : StepOutcome :=
  acceptReady s fun s => .next (sendDisplay (clearFlag dispB s.dispctl) s)

/-- DISPLAY_ON (R139). -/
def execDisplayOn (s : State) : StepOutcome :=
  acceptReady s fun s => .next (sendDisplay (setFlag dispD s.dispctl) s)

/-- DISPLAY_OFF (R140). -/
def execDisplayOff (s : State) : StepOutcome :=
  acceptReady s fun s => .next (sendDisplay (clearFlag dispD s.dispctl) s)

/-- LEFT_TO_RIGHT (R141). -/
def execLeftToRight (s : State) : StepOutcome :=
  acceptReady s fun s => .next (sendEntry (setFlag entryId s.entry) s)

/-- RIGHT_TO_LEFT (R142). -/
def execRightToLeft (s : State) : StepOutcome :=
  acceptReady s fun s => .next (sendEntry (clearFlag entryId s.entry) s)

/-- AUTOSCROLL (R143). -/
def execAutoscroll (s : State) : StepOutcome :=
  acceptReady s fun s => .next (sendEntry (setFlag entryS s.entry) s)

/-- NO_AUTOSCROLL (R144). -/
def execNoAutoscroll (s : State) : StepOutcome :=
  acceptReady s fun s => .next (sendEntry (clearFlag entryS s.entry) s)

/-! ### Backlight, raw byte, illegal opcode -/

/-- SET_BACKLIGHT (R145): BL is written, then pushed. -/
def execSetBacklight (on : Bool) (s : State) : StepOutcome :=
  acceptReady s fun s => .next (perform .plain blPushOps { s with bl := on })

/-- WRITE_BYTE (R146): the word is sent unchanged and no shadow register is written. -/
def execWriteByte (isData : Bool) (value : Byte) (s : State) : StepOutcome :=
  acceptReady s fun s => .next (perform .plain (byteOps s.timing value isData) s)

/-- ILLEGAL_REQUEST (R75, R245): whatever LIFE is, no Tx and no register change. -/
def execIllegalRequest (opcode : Byte) (s : State) : StepOutcome :=
  acceptIdle s fun s => .next (endRequest (.illegalRequest opcode) s)

end Sys2Proof.Machine
end

