-- ==== Sys2Proof/Machine/Glyph.lean ====
section
/-! DEFINITION. The character generator's request (43_character_generator.md R200 to R205). -/

namespace Sys2Proof.Machine

/-- How an upload ends: with the pointer in CGRAM (R203), and after 11 bytes with the next slot's first rows unknown
(R205). -/
def glyphEnding (slot : BitVec 7) (bitmap : List Byte) : Ending :=
  .glyph (slot.extractLsb' 0 3) (decide (bitmap.length = 11))

/-- UPLOAD_GLYPH (R200): the CGRAM address of the masked slot, then the bitmap bytes unmasked (R202). -/
def execUploadGlyph (slot : BitVec 7) (bitmap : List Byte) (s : State) : StepOutcome :=
  acceptReady s fun s =>
    .next (perform (glyphEnding slot bitmap)
      (byteOps s.timing (cgramCommand (cgAddr slot)) false ++ dataOps s.timing bitmap) s)

end Sys2Proof.Machine
end

