-- ==== Sys2Proof/Machine/Layout.lean ====
section
/-! DEFINITION. The text layout function (42_text_layout.md R171 to R178): pure, total and without state (R37). -/

namespace Sys2Proof.Machine

/-- The index of the lowest set bit of the row selection (R172). -/
def startRow (sel : BitVec 4) : Nat :=
  if sel.getLsbD 0 then 0 else if sel.getLsbD 1 then 1 else if sel.getLsbD 2 then 2 else 3

/-- The index of the highest set bit of the row selection (R172). -/
def endRow (sel : BitVec 4) : Nat :=
  if sel.getLsbD 3 then 3 else if sel.getLsbD 2 then 2 else if sel.getLsbD 1 then 1 else 0

/-- The number of rows filled, `endRow − startRow + 1` (R172). -/
def rowCount (sel : BitVec 4) : Nat := endRow sel - startRow sel + 1

/-- The text cut into at most `n` chunks of `cols` bytes, until the rows or the text run out (R173). -/
def chunksOf (cols : Nat) : Nat → List Byte → List (List Byte)
  | 0, _ => []
  | n + 1, text =>
    match text with
    | [] => []
    | _ :: _ => text.take cols :: chunksOf cols n (text.drop cols)

/-- The last byte of the last chunk becomes `~` (R174). -/
def markOverflow (cols n : Nat) (chunks : List (List Byte)) : List (List Byte) :=
  chunks.modify (n - 1) fun c => c.set (cols - 1) 0x7E

/-- A chunk padded with spaces to the row's width (R175). -/
def padRow (cols : Nat) (chunk : List Byte) : List Byte := chunk ++ List.replicate (cols - chunk.length) 0x20

/-- The last chunk padded, and rows of spaces up to `n` chunks (R175). -/
def padRows (cols n : Nat) (chunks : List (List Byte)) : List (List Byte) :=
  chunks.modify (chunks.length - 1) (padRow cols) ++ List.replicate (n - chunks.length) (List.replicate cols 0x20)

/-- `layout(text, sel, ell, pad, C)` (R178). -/
def layout (text : List Byte) (sel : BitVec 4) (ell pad : Bool) (cols : Nat) : List (List Byte) :=
  if text = [] then []
  else if sel = 0 then [text]
  else
    let n := rowCount sel
    let chunks := chunksOf cols n text
    if n * cols < text.length then
      if ell then markOverflow cols n chunks else chunks
    else if pad then padRows cols n chunks
    else chunks

end Sys2Proof.Machine
end

