-- ==== Sys2Proof/Machine/Text.lean ====
section
/-! DEFINITION. The text requests (42_text_layout.md R179 to R181). -/

namespace Sys2Proof.Machine

/-- PRINT (R179). -/
def execPrint (data : List Byte) (s : State) : StepOutcome :=
  acceptReady s fun s => .next (perform .plain (dataOps s.timing data) s)

/-- Each chunk at column 0 of its row, from row `row` down (R180). -/
def chunkOps (t : Timing) : Nat → List (List Byte) → List Op
  | _, [] => []
  | row, chunk :: chunks =>
    cursorOps t (BitVec.ofNat 8 row) 0 ++ dataOps t chunk ++ chunkOps t (row + 1) chunks

/-- SHOW_TEXT (R180): without a selection an unpositioned write (R177); else the row range is checked before any bus
I/O, and OPT_CLAMP does not apply (R181). -/
def execShowText (sel : BitVec 4) (ell pad : Bool) (text : List Byte) (s : State) : StepOutcome :=
  acceptReady s fun s =>
    if sel = 0 then .next (perform .plain (dataOps s.timing text) s)
    else if s.geomRows.toNat ≤ endRow sel then invalidPosition (BitVec.ofNat 8 (endRow sel)) 0 s
    else
      .next (perform .plain
        (chunkOps s.timing (startRow sel) (layout text sel ell pad s.geomCols.toNat)) s)

end Sys2Proof.Machine
end

