-- ==== Sys2Proof/Machine/Dispatch.lean ====
section
/-! DEFINITION. One arm per instruction: the call of its meaning. -/

namespace Sys2Proof.Machine

def exec (i : Instr) (s : State) : Host.Outcome State Fault Refusal :=
  match i with
  | .init rows cols addr clamp font backlight => Sys2Proof.Machine.execInit rows cols addr clamp font backlight s
  | .clear => Sys2Proof.Machine.execClear s
  | .home => Sys2Proof.Machine.execHome s
  | .setCursor row col => Sys2Proof.Machine.execSetCursor row col s
  | .print data => Sys2Proof.Machine.execPrint data s
  | .showText sel ell pad text => Sys2Proof.Machine.execShowText sel ell pad text s
  | .setBacklight on => Sys2Proof.Machine.execSetBacklight on s
  | .cursorOn => Sys2Proof.Machine.execCursorOn s
  | .cursorOff => Sys2Proof.Machine.execCursorOff s
  | .blinkOn => Sys2Proof.Machine.execBlinkOn s
  | .blinkOff => Sys2Proof.Machine.execBlinkOff s
  | .displayOn => Sys2Proof.Machine.execDisplayOn s
  | .displayOff => Sys2Proof.Machine.execDisplayOff s
  | .leftToRight => Sys2Proof.Machine.execLeftToRight s
  | .rightToLeft => Sys2Proof.Machine.execRightToLeft s
  | .autoscroll => Sys2Proof.Machine.execAutoscroll s
  | .noAutoscroll => Sys2Proof.Machine.execNoAutoscroll s
  | .uploadGlyph slot bitmap => Sys2Proof.Machine.execUploadGlyph slot bitmap s
  | .writeByte isData value => Sys2Proof.Machine.execWriteByte isData value s
  | .illegalRequest opcode => Sys2Proof.Machine.execIllegalRequest opcode s
  | .wireELow d bl rs => Sys2Proof.Machine.execWireELow d bl rs s
  | .wireEHigh d bl rs => Sys2Proof.Machine.execWireEHigh d bl rs s
  | .clearDisplay => Sys2Proof.Machine.execClearDisplay s
  | .returnHome x => Sys2Proof.Machine.execReturnHome x s
  | .entryModeSet inc shift => Sys2Proof.Machine.execEntryModeSet inc shift s
  | .displayControl d c b => Sys2Proof.Machine.execDisplayControl d c b s
  | .functionSet dl n f x => Sys2Proof.Machine.execFunctionSet dl n f x s
  | .setCgramAddr a => Sys2Proof.Machine.execSetCgramAddr a s
  | .setDdramAddr a => Sys2Proof.Machine.execSetDdramAddr a s
  | .cursorDisplayShift sc rl x => Sys2Proof.Machine.execCursorDisplayShift sc rl x s
  | .noCommand00 => Sys2Proof.Machine.execNoCommand00 s
  | .writeData d => Sys2Proof.Machine.execWriteData d s
  | .initNibble8bit => Sys2Proof.Machine.execInitNibble8bit s
  | .initNibble4bit => Sys2Proof.Machine.execInitNibble4bit s

end Sys2Proof.Machine
end

