-- ==== Sys2Proof/Machine/Fetch.lean ====
section
/-! DEFINITION. What the machine does next: the sequencer's micro-op, an arrival downstream, or a request frame
(30_encoding.md R76, 20_memory.md R60, R62). Also the power cycle (70_reset_and_hazards.md R270), and how a table word is
placed where the machine takes its next instruction. -/

namespace Sys2Proof.Machine

/-- What the next step is. -/
inductive Fetched where
  /-- The sequencer is busy: one micro-step (R33). -/
  | micro
  /-- An instruction, and the state with its bits taken. -/
  | run (i : Instr) (s : State)
  /-- A strobed nibble that is no row of the table: the controller latches it all the same (R112, R113). -/
  | strobe (n : Nibble) (rs : Bool) (s : State)
  /-- Nothing to do until more bytes come (R76). -/
  | wait
  /-- No move. -/
  | stop (r : Refusal)
  deriving DecidableEq, Repr

/-- An arrival is decoded in its own layer. -/
def fetchArrival (a : Arrival) (s : State) : Fetched :=
  match a with
  | .wire b =>
    match decodeWire b with
    | .ok i => .run i s
    | .error _ => .stop .readWriteSet
  | .word w => .run (decodeWord w) s
  | .nibble v =>
    match decodeNibble v with
    | .ok i => .run i s
    | .error _ => .strobe (v.extractLsb' 0 4) (v.getLsbD 4) s

/-- A request that runs is finished first (R60, R253); between two requests another bus user's arrivals come before the next
frame (R62; notes/assumptions/11.md); a frame that is not complete is waited for (R76). -/
def fetch (s : State) : Fetched :=
  match s.seq with
  | .busy _ _ _ => .micro
  | .idle =>
    match s.arrivals with
    | a :: rest => fetchArrival a { s with arrivals := rest }
    | [] =>
      match decodeFrame s.rx with
      | .ok (i, rest) => .run i { s with rx := rest }
      | .error _ => .wait

/-- Power loss and power-on (R270): every register and the controller as at reset; the platform's parameters, what the
requester has submitted and what the transport will answer are not the block's. The model's two counters of free values
go on, so that no value drawn before the power loss is drawn again after it. DESIGN CHOICE, safe:
notes/assumptions/27.md. -/
def powerCycle (s : State) : State :=
  { State.reset with
    lcd := { State.reset.lcd with panel := { Panel.powerOn with draws := s.lcd.panel.draws } },
    timing := s.timing, rx := s.rx, arrivals := s.arrivals, answers := s.answers, draws := s.draws }

/-- The code of a table word put where `fetch` looks next: SEQ idle and nothing waiting downstream but itself
(notes/assumptions/10.md). -/
def placeCode (c : Code) (s : State) : State :=
  match c with
  | .frame bytes => { s with seq := .idle, arrivals := [], rx := bytes ++ s.rx }
  | .wire b => { s with seq := .idle, arrivals := .wire b :: s.arrivals }
  | .word w => { s with seq := .idle, arrivals := .word w :: s.arrivals }
  | .nibble v => { s with seq := .idle, arrivals := .nibble v :: s.arrivals }

end Sys2Proof.Machine
end

