-- ==== Sys2Proof/Machine/Step.lean ====
section
/-! DEFINITION. One step of the machine, in three outcomes, and how the host places an instruction. -/

namespace Sys2Proof.Machine

/-- One step: what `fetch` found. -/
def step (s : State) : Host.Outcome State Fault Refusal :=
  match fetch s with
  | .micro => .next (microStep s)
  | .run i s' => exec i s'
  | .strobe n rs s' => .next { s' with lcd := lcdLatch n rs s'.lcd }
  | .wait => .next s
  | .stop r => .refused r

/-- The state in which the next step fetches the instruction whose bits are `w`, numbered as the opcode table does. -/
def State.withFetchWord (s : State) (nbits w : Nat) : State := placeCode (tableCode nbits w) s

end Sys2Proof.Machine
end

