-- ==== Sys2Proof/Safety.lean ====
section
/-! DEFINITION. The vocabulary of claims: what a safe run is, the machine's invariant, and the events and bytes that the
spec's micro-op notation stands for (40_protocol_driver.md R102 to R104), written out without the block's own macros. -/

namespace Sys2Proof.Machine

/-- A step is safe when the machine moves: the block "is never stuck" (R258), so only a refusal is unsafe. -/
def SafeStep (s : State) : Prop := ∃ t, step s = .next t

/-- The instruction is a request of the block (a REQ row). -/
def isRequest : Instr → Bool
  | .init _ _ _ _ _ _ | .clear | .home | .setCursor _ _ | .print _ | .showText _ _ _ _ | .setBacklight _ | .cursorOn
  | .cursorOff | .blinkOn | .blinkOff | .displayOn | .displayOff | .leftToRight | .rightToLeft | .autoscroll
  | .noAutoscroll | .uploadGlyph _ _ | .writeByte _ _ | .illegalRequest _ => true
  | .wireELow _ _ _ | .wireEHigh _ _ _ | .clearDisplay | .returnHome _ | .entryModeSet _ _ | .displayControl _ _ _
  | .functionSet _ _ _ _ | .setCgramAddr _ | .setDdramAddr _ | .cursorDisplayShift _ _ _ | .noCommand00
  | .writeData _ | .initNibble8bit | .initNibble4bit => false

/-- The request is INIT. -/
def isInit : Instr → Bool
  | .init _ _ _ _ _ _ => true
  | _ => false

/-- The request's opcode is illegal. -/
def isIllegal : Instr → Bool
  | .illegalRequest _ => true
  | _ => false

/-- One of the six display-control requests (R135 to R140). -/
def isDisplayRequest : Instr → Bool
  | .cursorOn | .cursorOff | .blinkOn | .blinkOff | .displayOn | .displayOff => true
  | _ => false

/-- One of the four entry-mode requests (R141 to R144). -/
def isEntryRequest : Instr → Bool
  | .leftToRight | .rightToLeft | .autoscroll | .noAutoscroll => true
  | _ => false

/-- SET_BACKLIGHT. -/
def isBacklightRequest : Instr → Bool
  | .setBacklight _ => true
  | _ => false

/-- The request is accepted and runs: SEQ idle and LIFE Ready (R130). -/
abbrev Accepts (s : State) : Prop := s.seq = .idle ∧ s.life = .ready

/-- The transport's next `k` answers are Ok, and `rest` are the ones after them. -/
abbrev AnswersOk (k : Nat) (rest : List Answer) (s : State) : Prop := s.answers = List.replicate k .ok ++ rest

/-! ### Events and bytes of the wire level -/

/-- A Tx answered Ok of the byte `W(n, rs, e)` to DEV_ADDR, with the backlight bit BL. -/
def txEvent (s : State) (n : Byte) (rs e : Bool) : Event := .tx s.devAddr (wireByte s.bl n rs e) .ok

/-- The events of `NIB(n, rs, settle)`, every Tx answered Ok (R102). -/
def nibEvents (s : State) (n : Byte) (rs : Bool) (settle : Nat) : List Event :=
  [txEvent s n rs false, txEvent s n rs true, .delay s.timing.tEnableHold, txEvent s n rs false, .delay settle]

/-- The events of `BYTE(v, rs)`, every Tx answered Ok (R103, R85): high nibble first. -/
def byteEvents (s : State) (v : Byte) (rs : Bool) : List Event :=
  nibEvents s (v &&& 0xF0) rs s.timing.tSettle ++ nibEvents s ((v <<< 4) &&& 0xF0) rs s.timing.tSettle

/-- The events of data bytes in list order (R179). -/
def dataEvents (s : State) (data : List Byte) : List Event := data.flatMap fun d => byteEvents s d true

/-- The events of chunks written at column 0 of successive rows (R180, R83). -/
def chunkEvents (s : State) : Nat → List (List Byte) → List Event
  | _, [] => []
  | row, chunk :: chunks =>
    byteEvents s (0x80 ||| (rowOff row &&& 0x7F)) false ++ dataEvents s chunk ++ chunkEvents s (row + 1) chunks

/-- The events of the cold-start sequence (R131), with the function-set value `funcset`. -/
def initEvents (s : State) (funcset : Byte) : List Event :=
  [.delay s.timing.tPowerOn]
    ++ nibEvents s 0x30 false s.timing.tInitFirst ++ nibEvents s 0x30 false s.timing.tInitNext
    ++ nibEvents s 0x30 false s.timing.tInitNext ++ nibEvents s 0x20 false s.timing.tInitNext
    ++ byteEvents s (0x20 ||| funcset) false ++ byteEvents s 0x0C false ++ byteEvents s 0x06 false
    ++ byteEvents s 0x01 false ++ [.delay s.timing.tClearHome]
    ++ byteEvents s 0x02 false ++ [.delay s.timing.tClearHome]

/-- The bytes the transactions of a trace carried, in order. -/
def sentBytes : List Event → List Byte
  | [] => []
  | .tx _ b _ :: evs => b :: sentBytes evs
  | .delay _ :: evs => sentBytes evs

/-- The number of transactions of a trace (R285). -/
def txCount (evs : List Event) : Nat := (sentBytes evs).length

/-- The number of delays of a trace (R285). -/
def delayCount : List Event → Nat
  | [] => 0
  | .tx _ _ _ :: evs => delayCount evs
  | .delay _ :: evs => delayCount evs + 1

/-- The sum of the delays of a trace, in µs (R285). -/
def delaySum : List Event → Nat
  | [] => 0
  | .tx _ _ _ :: evs => delaySum evs
  | .delay t :: evs => t + delaySum evs

/-- The controller after bytes that reached the port one after another (R111). -/
def observeAll (bytes : List Byte) (l : Lcd) : Lcd := bytes.foldl (fun l b => lcdObserve b l) l

/-- The machine after a request that completed with OK and whose trace is `evs`, every byte of it having reached the
expander; the transport's answers left are `rest`. Every other field is as in `s`. -/
def sentOk (s : State) (evs : List Event) (rest : List Answer) : State :=
  { s with
    trace := evs, result := some .ok, answers := rest,
    expLatch := (sentBytes evs).getLastD s.expLatch, lcd := observeAll (sentBytes evs) s.lcd }

/-- The machine after a request that ended before any Tx, with its answer and an empty trace. -/
def answered (s : State) (r : Result) : State := { s with trace := [], result := some r }

/-! ### Events of a micro-op list, for claims about any request -/

/-- The number of Tx in a micro-op list. -/
def opTxCount : List Op → Nat
  | [] => 0
  | .tx _ _ _ :: ops => opTxCount ops + 1
  | .delay _ :: ops => opTxCount ops

/-- The events of micro-ops all of whose Tx are answered Ok, to this address and with this backlight bit. -/
def opEvents (addr : HalfWord) (bl : Bool) : List Op → List Event
  | [] => []
  | .tx n rs e :: ops => .tx addr (wireByte bl n rs e) .ok :: opEvents addr bl ops
  | .delay t :: ops => .delay t :: opEvents addr bl ops

/-- The events up to and including the Tx number `k` (from 0), which is answered Err. -/
def opEventsUntilErr (addr : HalfWord) (bl : Bool) (info : BusErrorInfo) (took : Bool) : Nat → List Op → List Event
  | _, [] => []
  | k, .delay t :: ops => .delay t :: opEventsUntilErr addr bl info took k ops
  | 0, .tx n rs e :: _ => [.tx addr (wireByte bl n rs e) (.err info took)]
  | k + 1, .tx n rs e :: ops => .tx addr (wireByte bl n rs e) .ok :: opEventsUntilErr addr bl info took k ops

/-! ### The controller, for claims -/

/-- Sender and controller are in step: 4-bit interface, no nibble held, E low (R115). -/
abbrev InStep (l : Lcd) : Prop := l.obs.mode = .four ∧ l.obs.phase = .high ∧ l.obs.prevE = false

/-- The expander bytes of `NIB(n, rs, _)` with backlight bit `bl` (R102). -/
def nibBytes (bl : Bool) (n : Byte) (rs : Bool) : List Byte :=
  [wireByte bl n rs false, wireByte bl n rs true, wireByte bl n rs false]

/-- The expander bytes of `BYTE(v, rs)` with backlight bit `bl` (R103). -/
def byteBytes (bl : Bool) (v : Byte) (rs : Bool) : List Byte :=
  nibBytes bl (v &&& 0xF0) rs ++ nibBytes bl ((v <<< 4) &&& 0xF0) rs

/-- The expander bytes of the four initialisation strobes (R116). -/
def strobeBytes (bl : Bool) : List Byte :=
  nibBytes bl 0x30 false ++ nibBytes bl 0x30 false ++ nibBytes bl 0x30 false ++ nibBytes bl 0x20 false

/-- The words the four initialisation strobes deliver, for every start state (R116's table). Where the held nibble is
itself 0x3, the garbage word `0:33` is a FUNCTION_SET with DL = 1 (R113) and the next strobe meets an 8-bit interface. -/
def strobeWords (o : Observer) : List Delivered :=
  let w3 := Delivered.eightBit false 0x3
  let w2 := Delivered.eightBit false 0x2
  let w33 := Delivered.full 0x033 false
  let garbage := Delivered.full (0#1 ++ o.hiNib ++ 0x3#4) o.hiRs
  match o.mode, o.phase, o.prevE with
  | .eight, _, false => [w3, w3, w3, w2]
  | .eight, _, true => [w3, w3, w3, w3, w2]
  | .four, .high, false => [w33, w3, w2]
  | .four, .high, true => [w33, w3, w3, w2]
  | .four, .low, false => if o.hiNib = 0x3 then [garbage, w3, w3, w2] else [garbage, w33, w2]
  | .four, .low, true => if o.hiNib = 0x3 then [garbage, w3, w3, w3, w2] else [garbage, w33, w3, w2]

/-- The memory data writes land in, empty where it is not known. -/
def regionMemory (r : Region) (p : Panel) : Memory :=
  match r with
  | .ddram => p.ddram
  | .cgram => p.cgram
  | .unknown => []

/-- The address of the data byte number `k` written from address `a` on (R212, R217). -/
def cellAddr (inc : Bool) (a k : Nat) : Nat := if inc then a + k else a - k

/-- All `n` data bytes written from address `a` on have an address in the region's memory (R51). -/
def CellsFit (r : Region) (inc : Bool) (a n : Nat) : Prop :=
  r ≠ .unknown ∧ a < addressCount r ∧ if inc then a + n ≤ addressCount r else n ≤ a + 1

/-- After `t`, the region's memory holds `data` from address `a` on, every other byte of it reads as in `p`, and the
other memory is `p`'s. -/
def StoresData (r : Region) (inc : Bool) (a : Nat) (data : List Byte) (p q : Panel) : Prop :=
  (∀ k, k < data.length → Memory.read (regionMemory r q) (cellAddr inc a k) = data[k]?) ∧
  (∀ x, (∀ k, k < data.length → x ≠ cellAddr inc a k) →
    Memory.read (regionMemory r q) x = Memory.read (regionMemory r p) x) ∧
  (r = .ddram → q.cgram = p.cgram) ∧ (r = .cgram → q.ddram = p.ddram)

/-! ### The invariant -/

/-- The controller's memories are in canonical form and hold only addresses that exist (R51). -/
abbrev MemoryWf (p : Panel) : Prop :=
  Memory.wf p.ddram ∧ Memory.below 128 p.ddram ∧ Memory.wf p.cgram ∧ Memory.below 64 p.cgram

/-- LIFE is Ready, or INIT is running and will make it so. -/
def booted (s : State) : Bool :=
  s.life == .ready || (match s.seq with
    | .busy _ _ e => e == .init
    | .idle => false)

/-- What every step keeps, from any state that has it. -/
structure Lawful (s : State) : Prop where
  /-- A usable driver has a legal geometry (R21, R22, R23). -/
  geometry : booted s = true → geometryLegal s.geomRows s.geomCols = true
  /-- ENTRY's reserved bits are 0 (R27). -/
  entry : s.entry &&& 0xFC = 0
  /-- DISPCTL's reserved bits are 0 (R28). -/
  dispctl : s.dispctl &&& 0xF8 = 0
  /-- FUNCSET's reserved bits and DL are 0 (R29). -/
  funcset : s.funcset &&& 0xF3 = 0
  /-- The observer's E line is the port's (R32, R111). -/
  strobe : s.lcd.obs.prevE = s.expLatch.getLsbD 2
  /-- A nibble is held only by a 4-bit interface (R112, R113). -/
  phase : s.lcd.obs.mode = .eight → s.lcd.obs.phase = .high
  /-- The memories' form (R51). -/
  memory : MemoryWf s.lcd.panel
  /-- The mark that a word `0:33` is INIT's own stands only while INIT runs (the model's, notes/assumptions/16.md). -/
  resync : s.lcd.panel.resync = true → ∃ ops k, s.seq = .busy ops k .init
  /-- "The block never sets RW" (R78). -/
  readWrite : ∀ addr b ans, Event.tx addr b ans ∈ s.trace → b.getLsbD 1 = false

end Sys2Proof.Machine
end

