-- ==== Sys2Proof/Certificates/Slice0/Obligations.lean ====
section
/-! DEFINITION. The statements for the provers, from the spec's numbered rules. Each docstring names the rules. -/

open Sys2Proof Sys2Proof.Machine

/-! ### Encoding and fetching -/

/-- R71, R73, R77, R80, R82: decoding the code of a well-formed instruction gives the instruction, with every operand. -/
def Obligations.DecodeOfEncodeIsIdentity : Prop :=
  ∀ i : Instr, i.wellFormed = true → decode (encode i) = .ok i

/-- R76, R89: whatever bytes come, a frame that decodes is a well-formed request, and exactly the frame length R89
gives is consumed. -/
def Obligations.DecodedFrameIsWellFormed : Prop :=
  ∀ bytes i rest, decodeFrame bytes = .ok (i, rest) →
    i.wellFormed = true ∧ isRequest i = true ∧
    ∃ n, frameLength bytes = some n ∧ 0 < n ∧ n ≤ bytes.length ∧ rest = bytes.drop n

/-- R73, R89: a frame is decoded the same whatever bytes follow it, and they are left. -/
def Obligations.FrameLeavesFollowingBytes : Prop :=
  ∀ i bytes rest, i.wellFormed = true → encode i = .frame bytes → decodeFrame (bytes ++ rest) = .ok (i, rest)

/-- R76: "A frame shorter than its length under rule R89 is not yet a request. The block waits for the remaining bytes
and executes nothing." -/
def Obligations.IncompleteFrameWaits : Prop :=
  ∀ s i bytes, i.wellFormed = true → encode i = .frame bytes → s.seq = .idle → s.arrivals = [] →
    s.rx <+: bytes → s.rx ≠ bytes → step s = .next s

/-- R74: reserved operand bits, and UPLOAD_GLYPH's upper slot bits, change nothing. -/
def Obligations.ReservedBitsAreIgnored : Prop :=
  (∀ rr cc al ah oo oo' r, oo &&& 0x07 = oo' &&& 0x07 →
    decodeFrame (0x00 :: rr :: cc :: al :: ah :: oo :: r) = decodeFrame (0x00 :: rr :: cc :: al :: ah :: oo' :: r)) ∧
  (∀ ss ss' r, ss &&& 0x3F = ss' &&& 0x3F → decodeFrame (0x05 :: ss :: r) = decodeFrame (0x05 :: ss' :: r)) ∧
  (∀ ff ff' r, ff &&& 0x01 = ff' &&& 0x01 → decodeFrame (0x06 :: ff :: r) = decodeFrame (0x06 :: ff' :: r)) ∧
  (∀ ff ff' r, ff &&& 0x01 = ff' &&& 0x01 → decodeFrame (0x12 :: ff :: r) = decodeFrame (0x12 :: ff' :: r)) ∧
  (∀ slot slot' bitmap s, slot &&& 0x07 = slot' &&& 0x07 →
    exec (.uploadGlyph slot bitmap) s = exec (.uploadGlyph slot' bitmap) s)

/-- R80: every 9-bit word has one class, and its class and fields give the word back. -/
def Obligations.ControllerWordHasOneClass : Prop := ∀ w : CtrlWord, encode (decodeWord w) = .word w

/-- R72, R73, R77, R80, R82: words written out from the spec's encodings decode to what they stand for. -/
def Obligations.SampleCodesDecode : Prop :=
  decode (.frame [0x00, 0x02, 0x10, 0x27, 0x00, 0x04]) = .ok (.init 2 16 0x0027 false false true) ∧
  decode (.frame [0x03, 0x01, 0x03]) = .ok (.setCursor 1 3) ∧
  decode (.frame [0x04, 0x02, 0x00, 0x48, 0x69]) = .ok (.print [0x48, 0x69]) ∧
  decode (.frame [0x05, 0x23, 0x02, 0x00, 0x48, 0x69]) = .ok (.showText 0b0011 false true [0x48, 0x69]) ∧
  decode (.frame [0x12, 0x01, 0xAB]) = .ok (.writeByte true 0xAB) ∧
  decode (.wire 0x4D) = .ok (.wireEHigh 0x4 true true) ∧
  decode (.word 0x0C3) = .ok (.setDdramAddr 0x43) ∧
  decode (.word 0x028) = .ok (.functionSet false true false 0) ∧
  decode (.nibble 0x03) = .ok .initNibble8bit

/-- R33, R60, R76: a step is exec of the decoded instruction with its bits taken; a busy sequencer makes one micro-step
instead. -/
def Obligations.StepRunsDecodedInstruction : Prop :=
  (∀ s i rest, s.seq = .idle → s.arrivals = [] → decodeFrame s.rx = .ok (i, rest) →
    step s = exec i { s with rx := rest }) ∧
  (∀ s b i rest, s.seq = .idle → s.arrivals = .wire b :: rest → decodeWire b = .ok i →
    step s = exec i { s with arrivals := rest }) ∧
  (∀ s w rest, s.seq = .idle → s.arrivals = .word w :: rest → step s = exec (decodeWord w) { s with arrivals := rest }) ∧
  (∀ s v i rest, s.seq = .idle → s.arrivals = .nibble v :: rest → decodeNibble v = .ok i →
    step s = exec i { s with arrivals := rest }) ∧
  (∀ s ops k e, s.seq = .busy ops k e → step s = .next (microStep s))

/-- R258: "Nothing in the block itself faults or gets stuck". The only step without a move is on a byte with RW = 1 from
another bus user (R78). -/
def Obligations.OnlyReadWriteByteStops : Prop :=
  (∀ s, (∀ b rest, s.arrivals = .wire b :: rest → b.getLsbD 1 = false) → SafeStep s) ∧
  (∀ s b rest, s.seq = .idle → s.arrivals = .wire b :: rest → b.getLsbD 1 = true →
    step s = .refused .readWriteSet)

/-! ### Power-on and the invariant -/

/-- R270, R110: LIFE Uninitialized, SEQ idle, nothing sent; the observer in 8-bit mode with nothing delivered. The model's
choices for the registers that hold no value are in notes/assumptions/5.md to 7.md and are not stated here. -/
def Obligations.PowerOnState : Prop :=
  State.reset.life = .uninitialized ∧ State.reset.seq = .idle ∧ State.reset.trace = [] ∧ State.reset.result = none ∧
  State.reset.lcd.obs.mode = .eight ∧ State.reset.lcd.obs.phase = .high ∧ State.reset.lcd.obs.region = .unknown ∧
  State.reset.lcd.obs.words = []

/-- The machine after power-on meets the invariant. The clauses on ENTRY, DISPCTL and FUNCSET (DL = 0 among them) rest on
the zeros the model chose for registers the spec leaves unspecified (notes/assumptions/5.md), the strobe clause on the
power-up levels of notes/assumptions/6.md, and the mark resync is the model's own (notes/assumptions/16.md). -/
def Obligations.PowerOnMeetsInvariant : Prop := Lawful State.reset

/-- R21 to R23, R27 to R29, R51, R78, R111: from every state that meets the invariant, a step gives a state that meets
it: a usable driver has a legal geometry, reserved bits read 0, the observer's E line is the port's, the memories keep
their form, and no transaction sets RW. -/
def Obligations.EveryStepKeepsInvariant : Prop := ∀ s t, Lawful s → step s = .next t → Lawful t

/-! ### Acceptance and errors -/

/-- R243: every request except INIT and an illegal opcode is answered UNINITIALIZED while LIFE = Uninitialized: "No Tx
is sent and no register changes." -/
def Obligations.RequestsBeforeInitAreUninitialized : Prop :=
  ∀ i s, isRequest i = true → isInit i = false → isIllegal i = false → s.seq = .idle → s.life = .uninitialized →
    exec i s = .next (answered s .uninitialized)

/-- R245, R75: an illegal opcode is answered at once, whatever LIFE is, and only its byte is consumed. -/
def Obligations.IllegalOpcodeAnsweredAtOnce : Prop :=
  (∀ opcode s, s.seq = .idle → exec (.illegalRequest opcode) s = .next (answered s (.illegalRequest opcode))) ∧
  (∀ s (opcode : Byte) rest, s.seq = .idle → s.arrivals = [] → s.rx = opcode :: rest → 0x13 ≤ opcode.toNat →
    step s = .next (answered { s with rx := rest } (.illegalRequest opcode)))

/-- R244: an INIT whose geometry is not legal changes no register (LIFE included) and sends nothing. -/
def Obligations.IllegalGeometryChangesNothing : Prop :=
  ∀ rows cols addr clamp font backlight s, s.seq = .idle →
    ¬ ((rows = 1 ∨ rows = 2 ∨ rows = 4) ∧ 1 ≤ cols.toNat ∧ cols.toNat ≤ 20) →
    exec (.init rows cols addr clamp font backlight) s = .next (answered s (.invalidGeometry rows cols))

/-- R253: "A request is not accepted while another is running". The refusal is the model's form of no move
(notes/assumptions/21.md). -/
def Obligations.BusySequencerAcceptsNoRequest : Prop :=
  ∀ i s ops k e, isRequest i = true → s.seq = .busy ops k e → exec i s = .refused .requestWhileBusy

/-- R134, R242: SET_CURSOR outside the geometry answers INVALID_POSITION with the valid range, sends nothing and writes
nothing; a column always fails, a row unless OPT_CLAMP is set. -/
def Obligations.SetCursorOutsideGeometry : Prop :=
  ∀ row col s, Accepts s →
    (s.geomCols.toNat ≤ col.toNat ∨ (s.geomRows.toNat ≤ row.toNat ∧ s.optClamp = false)) →
    exec (.setCursor row col) s = .next (answered s (.invalidPosition row col s.geomRows s.geomCols))

/-- R181: SHOW_TEXT whose highest selected row `e` is outside the geometry answers INVALID_POSITION before any bus I/O,
whatever the text and OPT_CLAMP. -/
def Obligations.ShowTextOutsideGeometry : Prop :=
  ∀ sel ell pad text s e, Accepts s → sel.getLsbD e = true → (∀ j, e < j → sel.getLsbD j = false) →
    s.geomRows.toNat ≤ e →
    exec (.showText sel ell pad text) s =
      .next (answered s (.invalidPosition (BitVec.ofNat 8 e) 0 s.geomRows s.geomCols))

/-- R240, R258: an idle block gives every request exactly one result, whatever the transport answers, and is idle again.
The results' numeric codes are R240's. -/
def Obligations.EveryRequestIsAnswered : Prop :=
  (∀ i s, isRequest i = true → s.seq = .idle →
    ∃ t r, exec i s = .next t ∧ t.seq = .idle ∧ t.result = some r) ∧
  resultCode .ok = 0 ∧ (∀ info, resultCode (.busError info) = 1) ∧
  (∀ row col rows cols, resultCode (.invalidPosition row col rows cols) = 2) ∧ resultCode .uninitialized = 3 ∧
  (∀ rows cols, resultCode (.invalidGeometry rows cols) = 4) ∧ ∀ opcode, resultCode (.illegalRequest opcode) = 5

/-- R241, R100: a request that answered BUS_ERROR ends its trace with the one failed Tx, which carries the answer's
payload; a request that answered OK had every Tx answered Ok. -/
def Obligations.BusErrorIsLastEvent : Prop :=
  ∀ i s t, isRequest i = true → exec i s = .next t →
    (∀ info, t.result = some (.busError info) →
      ∃ evs addr b took, t.trace = evs ++ [.tx addr b (.err info took)] ∧
        ∀ a' b' ans, Event.tx a' b' ans ∈ evs → ans = .ok) ∧
    (t.result = some .ok → ∀ a' b' ans, Event.tx a' b' ans ∈ t.trace → ans = .ok)

/-- R107, R247: the first failed Tx ends the request: no later micro-op runs, SEQ is idle, no register is restored. -/
def Obligations.FailedTransactionEndsRequest : Prop :=
  ∀ e ops s k info took rest, k < opTxCount ops → s.trace = [] →
    s.answers = List.replicate k .ok ++ .err info took :: rest →
    ∃ latch lcd, perform e ops s =
      { s with
        seq := .idle, result := some (.busError info), answers := rest, expLatch := latch, lcd := lcd,
        trace := opEventsUntilErr s.devAddr s.bl info took k ops }

/-! ### The wire level -/

/-- R77, R78, R79: the fields of `W(n, rs, e)`. -/
def Obligations.WireByteFields : Prop :=
  ∀ bl n rs e,
    (wireByte bl n rs e).getLsbD 0 = rs ∧ (wireByte bl n rs e).getLsbD 1 = false ∧
    (wireByte bl n rs e).getLsbD 2 = e ∧ (wireByte bl n rs e).getLsbD 3 = bl ∧
    (wireByte bl n rs e).extractLsb' 4 4 = n.extractLsb' 4 4

/-- R100, R101: one micro-op. A Tx answered Ok puts the byte in EXP_LATCH; answered Err it leaves the old byte or the new
one, and fails; a Delay changes nothing but the trace. -/
def Obligations.MicroOpEffects : Prop :=
  (∀ n rs e s rest, s.answers = .ok :: rest →
    issue (.tx n rs e) s = .going { s with
      expLatch := wireByte s.bl n rs e, lcd := lcdObserve (wireByte s.bl n rs e) s.lcd, answers := rest,
      trace := s.trace ++ [.tx s.devAddr (wireByte s.bl n rs e) .ok] }) ∧
  (∀ n rs e s info rest, s.answers = .err info false :: rest →
    issue (.tx n rs e) s = .failed info { s with
      answers := rest, trace := s.trace ++ [.tx s.devAddr (wireByte s.bl n rs e) (.err info false)] }) ∧
  (∀ n rs e s info rest, s.answers = .err info true :: rest →
    issue (.tx n rs e) s = .failed info { s with
      expLatch := wireByte s.bl n rs e, lcd := lcdObserve (wireByte s.bl n rs e) s.lcd, answers := rest,
      trace := s.trace ++ [.tx s.devAddr (wireByte s.bl n rs e) (.err info true)] }) ∧
  (∀ d s, issue (.delay d) s = .going { s with trace := s.trace ++ [.delay d] })

/-- R24, R50, R78, R105: every transaction of a request goes to DEV_ADDR, has RW = 0, and carries the BL value the
request ends with, whatever the transport answers. -/
def Obligations.EveryTransactionOfARequest : Prop :=
  ∀ i s t addr b ans, isRequest i = true → exec i s = .next t → Event.tx addr b ans ∈ t.trace →
    addr = t.devAddr ∧ b.getLsbD 1 = false ∧ b.getLsbD 3 = t.bl

/-- R106: a request that completed with OK and sent something leaves E low. (An OK request that sent nothing, such as an
empty PRINT, leaves the port as it was.) -/
def Obligations.StrobeLowAfterOk : Prop :=
  ∀ i s t, isRequest i = true → exec i s = .next t → t.result = some .ok → sentBytes t.trace ≠ [] →
    t.expLatch.getLsbD 2 = false

/-- R33: the micro-sequencer, one micro-op a step, reaches exactly the state the request reaches as one atomic step,
for every micro-op list and whatever the transport answers. Nothing else is waiting at the block. -/
def Obligations.SequencerRefinesRequest : Prop :=
  ∀ e ops s err, s.arrivals = [] → decodeFrame s.rx = .error err →
    Sys2Proof.core.run (ops.length + 1) (startSeq e ops s) = .next (perform e ops s)

/-- R109, R110, R36: no rule of the block reads the controller: with another controller behind the expander, a step
does the same to everything but the controller. -/
def Obligations.BlockIgnoresController : Prop :=
  ∀ s t l, step s = .next t → ∃ l', step { s with lcd := l } = .next { t with lcd := l' }

/-! ### What a request leaves unchanged -/

/-- R20, R182: whatever the transport answers, a request writes only its own registers: INIT alone the configuration,
FUNCSET and LIFE; the entry requests ENTRY; the display requests DISPCTL; SET_BACKLIGHT BL. A request that sends nothing
leaves the port, the controller and its memories as they were. -/
def Obligations.RequestFrame : Prop :=
  ∀ i s t, isRequest i = true → exec i s = .next t →
    (isInit i = false →
      t.life = s.life ∧ t.geomRows = s.geomRows ∧ t.geomCols = s.geomCols ∧ t.devAddr = s.devAddr ∧
      t.optClamp = s.optClamp ∧ t.optFont = s.optFont ∧ t.funcset = s.funcset) ∧
    (isInit i = false → isEntryRequest i = false → t.entry = s.entry) ∧
    (isInit i = false → isDisplayRequest i = false → t.dispctl = s.dispctl) ∧
    (isInit i = false → isBacklightRequest i = false → t.bl = s.bl) ∧
    t.seq = s.seq ∧ t.timing = s.timing ∧ t.rx = s.rx ∧ t.arrivals = s.arrivals ∧
    (sentBytes t.trace = [] → t.expLatch = s.expLatch ∧ t.lcd = s.lcd)

/-- R147, R131, R135 to R145: an accepted request writes its shadow register whatever the transport answers; a BUS_ERROR
does not undo it. -/
def Obligations.ShadowRegistersKeepTheirValue : Prop :=
  ∀ s, Accepts s →
    (∃ t, exec .cursorOn s = .next t ∧ t.dispctl = s.dispctl ||| 0x02) ∧
    (∃ t, exec .cursorOff s = .next t ∧ t.dispctl = s.dispctl &&& ~~~0x02) ∧
    (∃ t, exec .blinkOn s = .next t ∧ t.dispctl = s.dispctl ||| 0x01) ∧
    (∃ t, exec .blinkOff s = .next t ∧ t.dispctl = s.dispctl &&& ~~~0x01) ∧
    (∃ t, exec .displayOn s = .next t ∧ t.dispctl = s.dispctl ||| 0x04) ∧
    (∃ t, exec .displayOff s = .next t ∧ t.dispctl = s.dispctl &&& ~~~0x04) ∧
    (∃ t, exec .leftToRight s = .next t ∧ t.entry = s.entry ||| 0x02) ∧
    (∃ t, exec .rightToLeft s = .next t ∧ t.entry = s.entry &&& ~~~0x02) ∧
    (∃ t, exec .autoscroll s = .next t ∧ t.entry = s.entry ||| 0x01) ∧
    (∃ t, exec .noAutoscroll s = .next t ∧ t.entry = s.entry &&& ~~~0x01) ∧
    (∀ on, ∃ t, exec (.setBacklight on) s = .next t ∧ t.bl = on)

/-- R21, R131: an INIT with a legal geometry, whatever LIFE was and whatever the transport answers: LIFE is Ready exactly
when the result is OK, else Uninitialized with BUS_ERROR, and the registers hold INIT's values either way. -/
def Obligations.InitResultDecidesLife : Prop :=
  ∀ rows cols addr clamp font backlight s, s.seq = .idle → (rows = 1 ∨ rows = 2 ∨ rows = 4) → 1 ≤ cols.toNat →
    cols.toNat ≤ 20 →
    ∃ t, exec (.init rows cols addr clamp font backlight) s = .next t ∧
      ((t.result = some .ok ∧ t.life = .ready) ∨
        (∃ info, t.result = some (.busError info) ∧ t.life = .uninitialized)) ∧
      t.geomRows = rows ∧ t.geomCols = cols ∧ t.devAddr = addr ∧ t.optClamp = clamp ∧ t.optFont = font ∧
      t.bl = backlight ∧ t.dispctl = 0x04 ∧ t.entry = 0x02 ∧
      t.funcset = (if rows = 1 then (if font then 0x04 else 0x00) else 0x08)

/-- R148: a flag request (or SET_BACKLIGHT) issued twice, both completing OK, leaves the register state of issuing it
once, and each issue sends the same six Tx (one Tx). -/
def Obligations.FlagRequestsAreIdempotent : Prop :=
  ∀ i s t u, isDisplayRequest i = true ∨ isEntryRequest i = true ∨ isBacklightRequest i = true →
    exec i s = .next t → t.result = some .ok → exec i t = .next u → u.result = some .ok →
    u.life = t.life ∧ u.geomRows = t.geomRows ∧ u.geomCols = t.geomCols ∧ u.devAddr = t.devAddr ∧
    u.optClamp = t.optClamp ∧ u.optFont = t.optFont ∧ u.entry = t.entry ∧ u.dispctl = t.dispctl ∧
    u.funcset = t.funcset ∧ u.bl = t.bl ∧ u.expLatch = t.expLatch ∧ u.seq = t.seq ∧
    sentBytes u.trace = sentBytes t.trace ∧ txCount t.trace = (if isBacklightRequest i then 1 else 6)

/-! ### What each request does when every Tx is answered Ok -/

/-- R132, R133: CLEAR and HOME send their command and wait out tClearHome; nothing else changes. -/
def Obligations.ClearAndHomeComplete : Prop :=
  ∀ s rest, Accepts s → AnswersOk 6 rest s →
    exec .clear s = .next (sentOk s (byteEvents s 0x01 false ++ [.delay s.timing.tClearHome]) rest) ∧
    exec .home s = .next (sentOk s (byteEvents s 0x02 false ++ [.delay s.timing.tClearHome]) rest)

/-- R135 to R144: the ten flag requests write one bit of DISPCTL or ENTRY and send DISPLAY_CONTROL or ENTRY_MODE built
from the new value; nothing else changes. -/
def Obligations.FlagRequestsComplete : Prop :=
  ∀ s rest, Accepts s → AnswersOk 6 rest s →
    exec .cursorOn s = .next (sentOk { s with dispctl := s.dispctl ||| 0x02 }
      (byteEvents s (0x08 ||| (s.dispctl ||| 0x02)) false) rest) ∧
    exec .cursorOff s = .next (sentOk { s with dispctl := s.dispctl &&& ~~~0x02 }
      (byteEvents s (0x08 ||| (s.dispctl &&& ~~~0x02)) false) rest) ∧
    exec .blinkOn s = .next (sentOk { s with dispctl := s.dispctl ||| 0x01 }
      (byteEvents s (0x08 ||| (s.dispctl ||| 0x01)) false) rest) ∧
    exec .blinkOff s = .next (sentOk { s with dispctl := s.dispctl &&& ~~~0x01 }
      (byteEvents s (0x08 ||| (s.dispctl &&& ~~~0x01)) false) rest) ∧
    exec .displayOn s = .next (sentOk { s with dispctl := s.dispctl ||| 0x04 }
      (byteEvents s (0x08 ||| (s.dispctl ||| 0x04)) false) rest) ∧
    exec .displayOff s = .next (sentOk { s with dispctl := s.dispctl &&& ~~~0x04 }
      (byteEvents s (0x08 ||| (s.dispctl &&& ~~~0x04)) false) rest) ∧
    exec .leftToRight s = .next (sentOk { s with entry := s.entry ||| 0x02 }
      (byteEvents s (0x04 ||| (s.entry ||| 0x02)) false) rest) ∧
    exec .rightToLeft s = .next (sentOk { s with entry := s.entry &&& ~~~0x02 }
      (byteEvents s (0x04 ||| (s.entry &&& ~~~0x02)) false) rest) ∧
    exec .autoscroll s = .next (sentOk { s with entry := s.entry ||| 0x01 }
      (byteEvents s (0x04 ||| (s.entry ||| 0x01)) false) rest) ∧
    exec .noAutoscroll s = .next (sentOk { s with entry := s.entry &&& ~~~0x01 }
      (byteEvents s (0x04 ||| (s.entry &&& ~~~0x01)) false) rest)

/-- R145, R104: SET_BACKLIGHT writes BL and sends one byte, `BL << 3`, without a delay. -/
def Obligations.SetBacklightCompletes : Prop :=
  ∀ on s rest, Accepts s → AnswersOk 1 rest s →
    exec (.setBacklight on) s =
      .next (sentOk { s with bl := on } [.tx s.devAddr (if on then 0x08 else 0x00) .ok] rest)

/-- R146: WRITE_BYTE sends the word unchanged and updates no shadow register. -/
def Obligations.WriteByteCompletes : Prop :=
  ∀ isData value s rest, Accepts s → AnswersOk 6 rest s →
    exec (.writeByte isData value) s = .next (sentOk s (byteEvents s value isData) rest)

/-- R134, R83, R31, R25: SET_CURSOR inside the geometry sends SET_DDRAM_ADDR of `ROWOFF[row] + col`; with OPT_CLAMP a row
outside it is replaced by the last row. -/
def Obligations.SetCursorCompletes : Prop :=
  (rowOff 0 = 0x00 ∧ rowOff 1 = 0x40 ∧ rowOff 2 = 0x14 ∧ rowOff 3 = 0x54) ∧
  ∀ row col s rest, Accepts s → AnswersOk 6 rest s → col.toNat < s.geomCols.toNat →
    (row.toNat < s.geomRows.toNat →
      exec (.setCursor row col) s =
        .next (sentOk s (byteEvents s (0x80 ||| ((rowOff row.toNat + col) &&& 0x7F)) false) rest)) ∧
    (s.geomRows.toNat ≤ row.toNat → s.optClamp = true →
      exec (.setCursor row col) s =
        .next (sentOk s (byteEvents s (0x80 ||| ((rowOff (s.geomRows - 1).toNat + col) &&& 0x7F)) false) rest))

/-- R179: PRINT sends its bytes in order as data, six Tx a byte. -/
def Obligations.PrintCompletes : Prop :=
  ∀ data s rest, Accepts s → AnswersOk (6 * data.length) rest s →
    exec (.print data) s = .next (sentOk s (dataEvents s data) rest)

/-- R180, R177: SHOW_TEXT without a selection sends the text unpositioned; with one, each chunk of the layout at column 0
of its row, from the lowest selected row `b` down. -/
def Obligations.ShowTextCompletes : Prop :=
  ∀ ell pad text s rest, Accepts s →
    (AnswersOk (6 * text.length) rest s →
      exec (.showText 0 ell pad text) s = .next (sentOk s (dataEvents s text) rest)) ∧
    (∀ sel b, sel.getLsbD b = true → (∀ j, j < b → sel.getLsbD j = false) →
      (∀ j, s.geomRows.toNat ≤ j → sel.getLsbD j = false) →
      AnswersOk (txCount (chunkEvents s b (layout text sel ell pad s.geomCols.toNat))) rest s →
      exec (.showText sel ell pad text) s =
        .next (sentOk s (chunkEvents s b (layout text sel ell pad s.geomCols.toNat)) rest))

/-- R200, R84, R202, R203, R205: UPLOAD_GLYPH sends SET_CGRAM_ADDR of `(slot & 7) << 3`, then the bitmap bytes unmasked. The
model's mark `uploaded` then says that the pointer stands in CGRAM (notes/assumptions/33.md), and after 11 bytes nothing is
known of rows 0 to 2 of the next slot, where U17 allows any value (the model's form of it, notes/assumptions/36.md). -/
def Obligations.UploadGlyphCompletes : Prop :=
  ∀ slot bitmap s rest, Accepts s → AnswersOk (6 + 6 * bitmap.length) rest s →
    let t := sentOk s
      (byteEvents s (0x40 ||| ((BitVec.zeroExtend 8 slot &&& 0x07) <<< 3)) false ++ dataEvents s bitmap) rest
    exec (.uploadGlyph slot bitmap) s =
      .next { t with lcd := { t.lcd with panel := { t.lcd.panel with
        cgram :=
          if bitmap.length = 11 then Memory.forget (isSpillCell (slot.extractLsb' 0 3)) t.lcd.panel.cgram
          else t.lcd.panel.cgram
        uploaded := true } } }

/-- R131, R271: INIT with a legal geometry writes every configuration and shadow register, sends the cold-start sequence
and leaves LIFE Ready, whatever LIFE was. The controller starts the sequence as it is, but for the model's own marks that
INIT is running and that a held nibble will make a garbage word (notes/assumptions/15.md, 16.md). -/
def Obligations.InitCompletes : Prop :=
  ∀ rows cols addr clamp font backlight s rest, s.seq = .idle → AnswersOk 42 rest s →
    (rows = 1 ∨ rows = 2 ∨ rows = 4) → 1 ≤ cols.toNat → cols.toNat ≤ 20 →
    let funcset : Byte := if rows = 1 then (if font then 0x04 else 0x00) else 0x08
    let s1 : State := { s with
      life := .ready, geomRows := rows, geomCols := cols, devAddr := addr, optClamp := clamp, optFont := font,
      bl := backlight, funcset := funcset, dispctl := 0x04, entry := 0x02, lcd := lcdResyncStart s.lcd }
    exec (.init rows cols addr clamp font backlight) s = .next { sentOk s1 (initEvents s1 funcset) rest with
      lcd := lcdResyncEnd (observeAll (sentBytes (initEvents s1 funcset)) s1.lcd) }

/-- R285: transactions, delays and the minimum total delay of every request that completed with OK. -/
def Obligations.CountsOfCompletedRequests : Prop :=
  ∀ i s t, exec i s = .next t → t.result = some .ok →
    let hold := s.timing.tEnableHold
    let settle := s.timing.tSettle
    let unit := 2 * hold + 2 * settle
    match i with
    | .init _ _ _ _ _ _ =>
      txCount t.trace = 42 ∧ delayCount t.trace = 31 ∧
      delaySum t.trace = s.timing.tPowerOn + s.timing.tInitFirst + 3 * s.timing.tInitNext + 4 * hold + 5 * unit
        + 2 * s.timing.tClearHome
    | .clear | .home =>
      txCount t.trace = 6 ∧ delayCount t.trace = 5 ∧ delaySum t.trace = unit + s.timing.tClearHome
    | .setCursor _ _ | .cursorOn | .cursorOff | .blinkOn | .blinkOff | .displayOn | .displayOff | .leftToRight
    | .rightToLeft | .autoscroll | .noAutoscroll | .writeByte _ _ =>
      txCount t.trace = 6 ∧ delayCount t.trace = 4 ∧ delaySum t.trace = unit
    | .setBacklight _ => txCount t.trace = 1 ∧ delayCount t.trace = 0 ∧ delaySum t.trace = 0
    | .print data =>
      txCount t.trace = 6 * data.length ∧ delayCount t.trace = 4 * data.length ∧
      delaySum t.trace = data.length * unit
    | .showText sel ell pad text =>
      let n := if sel = 0 then text.length else
        ((layout text sel ell pad s.geomCols.toNat).map fun c => c.length + 1).sum
      txCount t.trace = 6 * n ∧ delayCount t.trace = 4 * n ∧ delaySum t.trace = n * unit
    | .uploadGlyph _ bitmap =>
      txCount t.trace = 6 * (1 + bitmap.length) ∧ delayCount t.trace = 4 * (1 + bitmap.length) ∧
      delaySum t.trace = (1 + bitmap.length) * unit
    | _ => True

/-! ### The controller behind the expander -/

/-- R115: from a controller in step, the six bytes of `BYTE(v, rs)` deliver exactly one word, `rs:v`, not torn, and leave
it in step (8-bit mode after a FUNCTION_SET with DL = 1). A backlight push changes nothing. R115 says nothing of the
contents: here they change as the word's class says where the model's mark `framed` is set, and take any value where it is
not (the model's reading, notes/assumptions/15.md). -/
def Obligations.ByteTransferDeliversItsWord : Prop :=
  ∀ bl v rs l, InStep l →
    (let r := observeAll (byteBytes bl v rs) l
      let d := lcdDeliver (ctrlWord rs v) false l.panel.framed l
      r.obs.words = l.obs.words ++ [.full (ctrlWord rs v) false] ∧
      r.obs.mode = (if rs = false ∧ v.extractLsb' 5 3 = 1 ∧ v.getLsbD 4 = true then .eight else .four) ∧
      r.obs.phase = .high ∧ r.obs.prevE = false ∧ r.obs.region = d.obs.region ∧ r.panel = d.panel) ∧
    lcdObserve (wireByte bl 0x00 false false) l = l

/-- R108: what the controller holds of a byte when only the first bytes of it reached the expander: nothing, then E high,
then the high nibble. -/
def Obligations.PartialByteFraming : Prop :=
  ∀ bl v rs l, InStep l →
    let held : Lcd := { l with obs := { l.obs with hiNib := v.extractLsb' 4 4, hiRs := rs, phase := .low } }
    observeAll ((byteBytes bl v rs).take 1) l = l ∧
    observeAll ((byteBytes bl v rs).take 2) l = { l with obs := { l.obs with prevE := true } } ∧
    observeAll ((byteBytes bl v rs).take 3) l = held ∧
    observeAll ((byteBytes bl v rs).take 4) l = held ∧
    observeAll ((byteBytes bl v rs).take 5) l = { held with obs := { held.obs with prevE := true } }

/-- R116, R113: from every observer state the four initialisation strobes end in 4-bit mode, phase High, E low. The words
delivered are those of R116's table, except where the held nibble is itself 3: there the model follows R113, and the
garbage word 0:33 sets 8-bit mode (notes/assumptions/31.md). -/
def Obligations.InitStrobesResynchronise : Prop :=
  ∀ bl l, InStep (observeAll (strobeBytes bl) l) ∧
    (observeAll (strobeBytes bl) l).obs.words = l.obs.words ++ strobeWords l.obs

/-- R271, R204: an INIT that completes brings any controller into step, with its registers as the shadows say, DDRAM all
spaces and the address counter 0 in DDRAM; CGRAM is kept where no nibble was held and the controller was in step, which
the model's mark `framed` says (notes/assumptions/15.md, 16.md). -/
def Obligations.InitBringsControllerIntoStep : Prop :=
  ∀ rows cols addr clamp font backlight s rest, s.seq = .idle → AnswersOk 42 rest s →
    (rows = 1 ∨ rows = 2 ∨ rows = 4) → 1 ≤ cols.toNat → cols.toNat ≤ 20 →
    ∃ t, exec (.init rows cols addr clamp font backlight) s = .next t ∧
      InStep t.lcd ∧ t.lcd.obs.region = .ddram ∧ t.expLatch = (if backlight then 0x28 else 0x20) ∧
      t.lcd.panel.framed = true ∧ t.lcd.panel.ac = 0 ∧ t.lcd.panel.inc = true ∧ t.lcd.panel.shiftOn = false ∧
      t.lcd.panel.display = true ∧ t.lcd.panel.cursor = false ∧ t.lcd.panel.blink = false ∧
      t.lcd.panel.lines = decide (rows ≠ 1) ∧ t.lcd.panel.font = (font && decide (rows = 1)) ∧
      t.lcd.panel.shift = 0 ∧
      (∀ a, a < 128 → Memory.read t.lcd.panel.ddram a = some 0x20) ∧
      (s.lcd.panel.framed = true → s.lcd.obs.mode = .eight ∨ s.lcd.obs.phase = .high →
        t.lcd.panel.cgram = s.lcd.panel.cgram)

/-- R210 to R217 with R115: a request to a controller that is in step, every Tx answered Ok. The flag requests,
SET_BACKLIGHT, SET_CURSOR and HOME leave both memories; CLEAR fills DDRAM with spaces and leaves CGRAM. -/
def Obligations.RequestsAndControllerMemory : Prop :=
  (∀ i s t, (isDisplayRequest i = true ∨ isEntryRequest i = true ∨ isBacklightRequest i = true ∨
      (∃ row col, i = .setCursor row col) ∨ i = .home) →
    Lawful s → exec i s = .next t → t.result = some .ok → InStep s.lcd → s.lcd.panel.framed = true →
    InStep t.lcd ∧ t.lcd.panel.ddram = s.lcd.panel.ddram ∧ t.lcd.panel.cgram = s.lcd.panel.cgram) ∧
  (∀ s t, exec .clear s = .next t → t.result = some .ok → InStep s.lcd → s.lcd.panel.framed = true →
    InStep t.lcd ∧ (∀ a, a < 128 → Memory.read t.lcd.panel.ddram a = some 0x20) ∧
    t.lcd.panel.cgram = s.lcd.panel.cgram)

/-- R179, R177, R146, R217, R276: PRINT, SHOW_TEXT without a selection, or a data WRITE_BYTE, to a controller in step stores
its bytes, where they fit, from the address counter on, in the memory the counter points into, in the direction of I/D, and
leaves every other byte. Where an upload left the pointer in CGRAM and nothing has moved it since (the model's mark `uploaded`), such a
byte leaves nothing known of CGRAM, where U7 allows any value (the model's form of it, notes/assumptions/33.md). That the
counter moves by one past a row's end too is the model's choice (notes/assumptions/17.md; R179 and U16 leave open where such
bytes land). -/
def Obligations.PrintStoresText : Prop :=
  ∀ data s rest, Accepts s → AnswersOk (6 * data.length) rest s → InStep s.lcd → s.lcd.panel.framed = true →
    ∃ t, exec (.print data) s = .next t ∧ (∀ ell pad, exec (.showText 0 ell pad data) s = .next t) ∧
      (∀ d, data = [d] → exec (.writeByte true d) s = .next t) ∧ InStep t.lcd ∧
      (CellsFit s.lcd.obs.region s.lcd.panel.inc s.lcd.panel.ac.toNat data.length →
        s.lcd.obs.region ≠ .cgram ∨ s.lcd.panel.uploaded = false ∨ data = [] →
        StoresData s.lcd.obs.region s.lcd.panel.inc s.lcd.panel.ac.toNat data s.lcd.panel t.lcd.panel) ∧
      (s.lcd.obs.region = .cgram → s.lcd.panel.uploaded = true → data ≠ [] →
        t.lcd.panel.ddram = s.lcd.panel.ddram ∧ ∀ a, Memory.read t.lcd.panel.cgram a = none)

/-- R200, R205, R215, R217: UPLOAD_GLYPH to a controller in step stores the bitmap in CGRAM from `(slot & 7) << 3`, upward
where the controller's I/D is 1 and downward, into the slot below, where it is 0; it leaves every other byte of CGRAM and
all of DDRAM, and leaves the address pointer in CGRAM (R203). After 11 bytes nothing is known of rows 0 to 2 of the next slot
(of slot 0 after slot 7), where U17 allows any value; that they are unknown whatever I/D is, is the model's form of it
(notes/assumptions/36.md). Slot 7 with 11 bytes upward is left out, as CellsFit says. -/
def Obligations.UploadGlyphStoresBitmap : Prop :=
  ∀ slot bitmap s rest, Accepts s → AnswersOk (6 + 6 * bitmap.length) rest s → InStep s.lcd →
    s.lcd.panel.framed = true →
    let base := 8 * (slot.toNat % 8)
    let spilled := fun a => bitmap.length = 11 ∧ a / 8 = (slot.toNat % 8 + 1) % 8 ∧ a % 8 < 3
    CellsFit .cgram s.lcd.panel.inc base bitmap.length →
    ∃ t, exec (.uploadGlyph slot bitmap) s = .next t ∧ InStep t.lcd ∧ t.lcd.obs.region = .cgram ∧
      t.lcd.panel.ddram = s.lcd.panel.ddram ∧ t.lcd.panel.uploaded = true ∧
      (bitmap.length ≠ 11 → StoresData .cgram s.lcd.panel.inc base bitmap s.lcd.panel t.lcd.panel) ∧
      (∀ a, spilled a → Memory.read t.lcd.panel.cgram a = none) ∧
      (∀ k, k < bitmap.length → ¬ spilled (cellAddr s.lcd.panel.inc base k) →
        Memory.read t.lcd.panel.cgram (cellAddr s.lcd.panel.inc base k) = bitmap[k]?) ∧
      (∀ a, ¬ spilled a → (∀ k, k < bitmap.length → a ≠ cellAddr s.lcd.panel.inc base k) →
        Memory.read t.lcd.panel.cgram a = Memory.read s.lcd.panel.cgram a)

/-- R180, R31, R216: SHOW_TEXT with a selection whose lowest row is `b`, to a controller in step that writes left to
right: the cells of row `b + k` from column 0 on hold the layout's chunk `k`, and every other byte of both memories is
unchanged. -/
def Obligations.ShowTextStoresRows : Prop :=
  ∀ sel ell pad text s rest b, Accepts s → InStep s.lcd → s.lcd.panel.framed = true → s.lcd.panel.inc = true →
    sel.getLsbD b = true → (∀ j, j < b → sel.getLsbD j = false) →
    (∀ j, s.geomRows.toNat ≤ j → sel.getLsbD j = false) → s.geomCols.toNat ≤ 20 →
    AnswersOk (txCount (chunkEvents s b (layout text sel ell pad s.geomCols.toNat))) rest s →
    ∃ t, exec (.showText sel ell pad text) s = .next t ∧ InStep t.lcd ∧
      t.lcd.panel.cgram = s.lcd.panel.cgram ∧
      (∀ k c j, (layout text sel ell pad s.geomCols.toNat)[k]? = some c → j < c.length →
        Memory.read t.lcd.panel.ddram ((rowOff (b + k)).toNat + j) = some (c.getD j 0)) ∧
      (∀ a, (∀ k c j, (layout text sel ell pad s.geomCols.toNat)[k]? = some c → j < c.length →
          a ≠ (rowOff (b + k)).toNat + j) →
        Memory.read t.lcd.panel.ddram a = Memory.read s.lcd.panel.ddram a)

/-- R32, R53, R54, R111: a WIRE instruction puts its byte on the port; the controller latches a nibble exactly when E
falls; no other field changes. -/
def Obligations.ExpanderBytesReachThePort : Prop :=
  ∀ d bl rs s,
    exec (.wireEHigh d bl rs) s = .next { s with
      expLatch := wireBits d bl true rs, lcd := { s.lcd with obs := { s.lcd.obs with prevE := true } } } ∧
    (s.lcd.obs.prevE = false →
      exec (.wireELow d bl rs) s = .next { s with expLatch := wireBits d bl false rs }) ∧
    (s.lcd.obs.prevE = true →
      exec (.wireELow d bl rs) s = .next { s with
        expLatch := wireBits d bl false rs,
        lcd := { lcdLatch d rs s.lcd with obs := { (lcdLatch d rs s.lcd).obs with prevE := false } } })

/-- R210 to R213, R215, R216: the words that set addresses and modes, delivered whole: what each changes of the controller,
with everything else as it was. RETURN_HOME with its don't-care bit set has any value as its effect (R86, R258): both
memories are unknown after it (the model's reading, notes/assumptions/14.md). That a word is taken whole whatever the
interface holds is the model's choice (notes/assumptions/35.md). A word that sets the address counter also clears the model's
mark `uploaded` (R276; notes/assumptions/33.md). -/
def Obligations.AddressAndModeWordsAct : Prop :=
  ∀ s,
    (∃ t, exec .clearDisplay s = .next t ∧ t = { s with lcd := t.lcd } ∧
      t.lcd.obs = { s.lcd.obs with words := s.lcd.obs.words ++ [.full 0x001 false], region := .ddram } ∧
      t.lcd.panel = { s.lcd.panel with
        ddram := t.lcd.panel.ddram, ac := 0, inc := true, shift := t.lcd.panel.shift, uploaded := false,
        draws := t.lcd.panel.draws } ∧
      ∀ a, a < 128 → Memory.read t.lcd.panel.ddram a = some 0x20) ∧
    exec (.returnHome false) s = .next { s with lcd := {
      obs := { s.lcd.obs with words := s.lcd.obs.words ++ [.full 0x002 false], region := .ddram },
      panel := { s.lcd.panel with ac := 0, shift := 0, uploaded := false } } } ∧
    (∃ t, exec (.returnHome true) s = .next t ∧ t = { s with lcd := t.lcd } ∧
      t.lcd.obs = { s.lcd.obs with words := s.lcd.obs.words ++ [.full 0x003 false], region := .ddram } ∧
      ∀ a, Memory.read t.lcd.panel.ddram a = none ∧ Memory.read t.lcd.panel.cgram a = none) ∧
    (∀ inc shift, exec (.entryModeSet inc shift) s = .next { s with lcd := {
      obs := { s.lcd.obs with
        words := s.lcd.obs.words ++ [.full (ctrlWord false (0x04 ||| (bitByte inc <<< 1) ||| bitByte shift)) false] },
      panel := { s.lcd.panel with inc := inc, shiftOn := shift } } }) ∧
    (∀ d c b, exec (.displayControl d c b) s = .next { s with lcd := {
      obs := { s.lcd.obs with
        words := s.lcd.obs.words ++
          [.full (ctrlWord false (0x08 ||| (bitByte d <<< 2) ||| (bitByte c <<< 1) ||| bitByte b)) false] },
      panel := { s.lcd.panel with display := d, cursor := c, blink := b } } }) ∧
    (∀ a, exec (.setCgramAddr a) s = .next { s with lcd := {
      obs := { s.lcd.obs with
        words := s.lcd.obs.words ++ [.full (0x040 ||| BitVec.zeroExtend 9 a) false], region := .cgram },
      panel := { s.lcd.panel with ac := BitVec.zeroExtend 7 a, uploaded := false } } }) ∧
    (∀ a, exec (.setDdramAddr a) s = .next { s with lcd := {
      obs := { s.lcd.obs with
        words := s.lcd.obs.words ++ [.full (0x080 ||| BitVec.zeroExtend 9 a) false], region := .ddram },
      panel := { s.lcd.panel with ac := a, uploaded := false } } })

/-- R214, R113, R116, R258: FUNCTION_SET fixes the interface width. As INIT sends it, the lines and font are taken and
nothing else changes; as the word `0:33` that the strobes of a running INIT make, the memories are kept; otherwise, and
for a raw `0:33` too, its effect is any value, and it does not reopen initialisation (the model's reading, with its mark
`configured`, notes/assumptions/16.md). DL = 1 puts the controller out
of step unless INIT's own strobes made the word (R146; notes/assumptions/32.md). That the word is taken whole whatever the
interface holds is the model's choice (notes/assumptions/35.md). -/
def Obligations.FunctionSetActs : Prop :=
  ∀ dl n f x s,
    ∃ t, exec (.functionSet dl n f x) s = .next t ∧ t = { s with lcd := t.lcd } ∧
      t.lcd.obs.mode = (if dl then .eight else .four) ∧ t.lcd.obs.region = s.lcd.obs.region ∧
      t.lcd.obs.phase = (if dl then .high else s.lcd.obs.phase) ∧
      (t.lcd.panel.framed = true ↔ s.lcd.panel.framed = true ∧ (dl = false ∨ s.lcd.panel.resync = true)) ∧
      (∃ w, t.lcd.obs.words = s.lcd.obs.words ++ [.full w false] ∧ decodeWord w = .functionSet dl n f x) ∧
      (if dl = false ∧ x = 0 ∧ ¬ (n = true ∧ f = true) ∧
          (s.lcd.panel.configured = false ∨ (n = s.lcd.panel.lines ∧ f = s.lcd.panel.font)) then
        t.lcd.panel = { s.lcd.panel with lines := n, font := f, configured := true }
      else if s.lcd.panel.resync = true ∧ dl = true ∧ x = 3 ∧ n = false ∧ f = false then
        t.lcd.panel.ddram = s.lcd.panel.ddram ∧ t.lcd.panel.cgram = s.lcd.panel.cgram ∧
        t.lcd.panel.ac = s.lcd.panel.ac ∧ t.lcd.panel.configured = false
      else
        t.lcd.panel.configured = true ∧ ∀ a, Memory.read t.lcd.panel.ddram a = none ∧ Memory.read t.lcd.panel.cgram a = none)

/-- R217, R114: WRITE_DATA stores its byte at the address counter in the memory it points into, leaves every other byte,
then moves the counter by I/D. The model's choices: the word is taken whole whatever the interface holds
(notes/assumptions/35.md). A byte past CGRAM's end is stored nowhere
(notes/assumptions/17.md): R205 lets it wrap or fall outside, depending on the controller. Where the memory is not known,
nothing is known of either one afterwards (notes/assumptions/30.md). A byte written where an upload left the pointer leaves
nothing known of CGRAM (R203; U7's any value, notes/assumptions/33.md). -/
def Obligations.WriteDataStores : Prop :=
  ∀ d s,
    ∃ t, exec (.writeData d) s = .next t ∧ t = { s with lcd := t.lcd } ∧
      t.lcd.obs = { s.lcd.obs with words := s.lcd.obs.words ++ [.full (ctrlWord true d) false] } ∧
      t.lcd.panel = { s.lcd.panel with
        ddram := t.lcd.panel.ddram, cgram := t.lcd.panel.cgram, ac := t.lcd.panel.ac, shift := t.lcd.panel.shift,
        draws := t.lcd.panel.draws } ∧
      (s.lcd.panel.shiftOn = false → t.lcd.panel.shift = s.lcd.panel.shift) ∧
      (s.lcd.panel.inc = true → s.lcd.panel.ac.toNat + 1 < addressCount s.lcd.obs.region →
        t.lcd.panel.ac.toNat = s.lcd.panel.ac.toNat + 1) ∧
      (s.lcd.panel.inc = false → 0 < s.lcd.panel.ac.toNat → s.lcd.panel.ac.toNat < addressCount s.lcd.obs.region →
        t.lcd.panel.ac.toNat = s.lcd.panel.ac.toNat - 1) ∧
      (match s.lcd.obs.region with
        | .ddram =>
          Memory.read t.lcd.panel.ddram s.lcd.panel.ac.toNat = some d ∧
          (∀ a, a ≠ s.lcd.panel.ac.toNat →
            Memory.read t.lcd.panel.ddram a = Memory.read s.lcd.panel.ddram a) ∧
          t.lcd.panel.cgram = s.lcd.panel.cgram
        | .cgram =>
          t.lcd.panel.ddram = s.lcd.panel.ddram ∧
          (s.lcd.panel.uploaded = false →
            (∀ a, a ≠ s.lcd.panel.ac.toNat ∨ 64 ≤ s.lcd.panel.ac.toNat →
              Memory.read t.lcd.panel.cgram a = Memory.read s.lcd.panel.cgram a) ∧
            (s.lcd.panel.ac.toNat < 64 → Memory.read t.lcd.panel.cgram s.lcd.panel.ac.toNat = some d)) ∧
          (s.lcd.panel.uploaded = true → ∀ a, Memory.read t.lcd.panel.cgram a = none)
        | .unknown => ∀ a, Memory.read t.lcd.panel.ddram a = none ∧ Memory.read t.lcd.panel.cgram a = none)

/-- R86, R258: a shift command and the word 0:00 are recorded; region, mode and phase stay, and their effect on the
controller is any value, so nothing is known of the memories (the model's reading, notes/assumptions/14.md; that the word is
taken whole whatever the interface holds is its choice, notes/assumptions/35.md). The same
holds of every command word R86 lists that a WRITE_BYTE sends to a controller in step: 0:00, the shifts, RETURN_HOME with
its don't-care bit, and every FUNCTION_SET value INIT does not send (R146; notes/assumptions/16.md). One with DL = 1 puts
the controller in 8-bit mode and out of step, and until the next INIT every later byte is misframed (R146): no other
request brings it into step, and one that delivers a word to it leaves nothing known of the memories. That the model's mark
`framed` says so is its reading (notes/assumptions/15.md, 32.md). -/
def Obligations.UnemittedWordsHaveAnyEffect : Prop :=
  ∀ sc rl x s,
    (∃ t, exec (.cursorDisplayShift sc rl x) s = .next t ∧ t = { s with lcd := t.lcd } ∧
      (∃ w, t.lcd.obs = { s.lcd.obs with words := s.lcd.obs.words ++ [.full w false] } ∧
        decodeWord w = .cursorDisplayShift sc rl x) ∧
      ∀ a, Memory.read t.lcd.panel.ddram a = none ∧ Memory.read t.lcd.panel.cgram a = none) ∧
    (∃ t, exec .noCommand00 s = .next t ∧ t = { s with lcd := t.lcd } ∧
      t.lcd.obs = { s.lcd.obs with words := s.lcd.obs.words ++ [.full 0x000 false] } ∧
      ∀ a, Memory.read t.lcd.panel.ddram a = none ∧ Memory.read t.lcd.panel.cgram a = none) ∧
    (∀ (v : Byte) rest, Lawful s → Accepts s → AnswersOk 6 rest s → InStep s.lcd →
      (v = 0x00 ∨ v = 0x03 ∨ (0x10 ≤ v.toNat ∧ v.toNat ≤ 0x1F) ∨
        (0x20 ≤ v.toNat ∧ v.toNat ≤ 0x3F ∧ v ≠ 0x20 ∧ v ≠ 0x24 ∧ v ≠ 0x28)) →
      ∃ t, exec (.writeByte false v) s = .next t ∧ t.result = some .ok ∧
        t.lcd.obs.words = s.lcd.obs.words ++ [.full (ctrlWord false v) false] ∧
        (0x30 ≤ v.toNat → t.lcd.obs.mode = .eight ∧ t.lcd.panel.framed = false) ∧
        ∀ a, Memory.read t.lcd.panel.ddram a = none ∧ Memory.read t.lcd.panel.cgram a = none) ∧
    (∀ i t, isRequest i = true → isInit i = false → Lawful s → s.lcd.panel.framed = false → exec i s = .next t →
      t.lcd.panel.framed = false ∧
      (t.lcd.obs.words ≠ s.lcd.obs.words →
        ∀ a, Memory.read t.lcd.panel.ddram a = none ∧ Memory.read t.lcd.panel.cgram a = none))

/-- R218, R219, R112, R113: an initialisation nibble sets the interface width in 8-bit mode; in 4-bit mode it is held, or
completes a word. Any other nibble that a WIRE instruction latches in 8-bit mode is recorded with its low lines undriven,
and sets the mode or the region as R112 says. Four clauses are the model's own, in none of these rules: in 8-bit mode an
initialisation nibble keeps both memories of a controller whose mark `framed` is set (notes/assumptions/16.md, 28.md),
INIT_NIBBLE_4BIT sets that mark (notes/assumptions/15.md), both reopen initialisation for the next FUNCTION_SET (the mark
`configured`, notes/assumptions/16.md), and another nibble leaves nothing known of the memories
(notes/assumptions/28.md). -/
def Obligations.InitNibblesAreLatched : Prop :=
  ∀ s,
    (s.lcd.obs.mode = .eight →
      (∃ t, exec .initNibble8bit s = .next t ∧ t = { s with lcd := t.lcd } ∧
        t.lcd.obs = { s.lcd.obs with words := s.lcd.obs.words ++ [.eightBit false 0x3], mode := .eight, phase := .high } ∧
        t.lcd.panel.configured = false ∧
        (s.lcd.panel.framed = true →
          t.lcd.panel.ddram = s.lcd.panel.ddram ∧ t.lcd.panel.cgram = s.lcd.panel.cgram)) ∧
      (∃ t, exec .initNibble4bit s = .next t ∧ t = { s with lcd := t.lcd } ∧
        t.lcd.obs = { s.lcd.obs with words := s.lcd.obs.words ++ [.eightBit false 0x2], mode := .four, phase := .high } ∧
        t.lcd.panel.configured = false ∧ t.lcd.panel.framed = true ∧
        (s.lcd.panel.framed = true →
          t.lcd.panel.ddram = s.lcd.panel.ddram ∧ t.lcd.panel.cgram = s.lcd.panel.cgram)) ∧
      (∀ d bl rs, s.lcd.obs.prevE = true →
        ∃ t, exec (.wireELow d bl rs) s = .next t ∧
          (rs = false ∧ d.extractLsb' 1 3 = 0b001#3 →
            t.lcd.obs = { s.lcd.obs with
              words := s.lcd.obs.words ++ [.eightBit false d], prevE := false, phase := .high,
              mode := if d.getLsbD 0 = true then .eight else .four }) ∧
          (¬ (rs = false ∧ d.extractLsb' 1 3 = 0b001#3) →
            t.lcd.obs = { s.lcd.obs with
              words := s.lcd.obs.words ++ [.eightBit rs d], prevE := false,
              region :=
                if rs = false ∧ d.getLsbD 3 = true then .ddram
                else if rs = false ∧ d.extractLsb' 2 2 = 0b01#2 then .cgram
                else s.lcd.obs.region } ∧
            ∀ a, Memory.read t.lcd.panel.ddram a = none ∧ Memory.read t.lcd.panel.cgram a = none))) ∧
    (s.lcd.obs.mode = .four → s.lcd.obs.phase = .high →
      exec .initNibble8bit s = .next { s with lcd := { s.lcd with
        obs := { s.lcd.obs with hiNib := 0x3, hiRs := false, phase := .low } } } ∧
      exec .initNibble4bit s = .next { s with lcd := { s.lcd with
        obs := { s.lcd.obs with hiNib := 0x2, hiRs := false, phase := .low } } }) ∧
    (s.lcd.obs.mode = .four → s.lcd.obs.phase = .low →
      (∃ t, exec .initNibble8bit s = .next t ∧ t = { s with lcd := t.lcd } ∧ t.lcd.obs.phase = .high ∧
        t.lcd.obs.words = s.lcd.obs.words ++ [.full (0#1 ++ s.lcd.obs.hiNib ++ 0x3#4) s.lcd.obs.hiRs]) ∧
      (∃ t, exec .initNibble4bit s = .next t ∧ t = { s with lcd := t.lcd } ∧ t.lcd.obs.phase = .high ∧
        t.lcd.obs.words = s.lcd.obs.words ++ [.full (0#1 ++ s.lcd.obs.hiNib ++ 0x2#4) s.lcd.obs.hiRs]))

/-! ### The layout function -/

/-- R176, R177: an empty text gives no chunk whatever the selection and options; without a selection a text is one chunk,
unsliced and unpadded. -/
def Obligations.LayoutOfEmptyOrUnselected : Prop :=
  (∀ sel ell pad cols, layout [] sel ell pad cols = []) ∧
  (∀ text ell pad cols, text ≠ [] → layout text 0 ell pad cols = [text])

/-- R172, R173, R175: with a selection from row `b` to row `e`, there are at most `e - b + 1` chunks, and no chunk is
longer than the row. -/
def Obligations.LayoutChunksFitRows : Prop :=
  ∀ text sel ell pad cols b e, 1 ≤ cols → sel.getLsbD b = true → (∀ j, j < b → sel.getLsbD j = false) →
    sel.getLsbD e = true → (∀ j, e < j → sel.getLsbD j = false) →
    (layout text sel ell pad cols).length ≤ e - b + 1 ∧ ∀ c ∈ layout text sel ell pad cols, c.length ≤ cols

/-- R173, R174: without padding or ellipsis the chunks joined are the text as far as it fits in the rows `b` to `e`, cut
every `cols` bytes; the rest is dropped. -/
def Obligations.LayoutCutsText : Prop :=
  ∀ text sel cols b e, 1 ≤ cols → sel.getLsbD b = true → (∀ j, j < b → sel.getLsbD j = false) →
    sel.getLsbD e = true → (∀ j, e < j → sel.getLsbD j = false) →
    (layout text sel false false cols).flatten = text.take ((e - b + 1) * cols) ∧
    (layout text sel false false cols).length = min (e - b + 1) ((text.length + cols - 1) / cols) ∧
    ∀ k, k + 1 < (layout text sel false false cols).length →
      ∃ c, (layout text sel false false cols)[k]? = some c ∧ c.length = cols

/-- R174: when the text overflows, the bytes beyond the rows are not written. With ellipsis the last cell of the last row
is `~`; without it they are dropped; padding has no effect on either. -/
def Obligations.LayoutMarksOverflow : Prop :=
  ∀ text sel pad cols b e, 1 ≤ cols → sel.getLsbD b = true → (∀ j, j < b → sel.getLsbD j = false) →
    sel.getLsbD e = true → (∀ j, e < j → sel.getLsbD j = false) → (e - b + 1) * cols < text.length →
    (layout text sel true pad cols).flatten = text.take ((e - b + 1) * cols - 1) ++ [0x7E] ∧
    (layout text sel true pad cols).map List.length = List.replicate (e - b + 1) cols ∧
    layout text sel false pad cols = layout text sel false false cols ∧
    (layout text sel false false cols).flatten = text.take ((e - b + 1) * cols)

/-- R175: when the text does not overflow, is not empty and padding is asked for, every row `b` to `e` is filled to its
width with spaces after the text, and ellipsis has no effect. -/
def Obligations.LayoutPadsRows : Prop :=
  ∀ text sel ell cols b e, 1 ≤ cols → sel.getLsbD b = true → (∀ j, j < b → sel.getLsbD j = false) →
    sel.getLsbD e = true → (∀ j, e < j → sel.getLsbD j = false) → text ≠ [] →
    text.length ≤ (e - b + 1) * cols →
    (layout text sel ell true cols).flatten =
      text ++ List.replicate ((e - b + 1) * cols - text.length) 0x20 ∧
    (layout text sel ell true cols).length = e - b + 1 ∧
    (∀ c ∈ layout text sel ell true cols, c.length = cols) ∧
    layout text sel true false cols = layout text sel false false cols
end

