-- ==== Sys2Proof/Laws/Decode.lean ====
section
/-! SUPPORT. The laws of the decoder's and encoder's parts: u16 fields, payloads, and the frame length. -/

namespace Sys2Proof

/-- A u16 field read back from its two bytes. -/
theorem halfWordOf_bytes (v : HalfWord) : halfWordOf (lowByte v) (highByte v) = v := by
  unfold halfWordOf lowByte highByte
  ext i hi
  simp only [BitVec.getElem_append, BitVec.getElem_extractLsb']
  split
  · simp [BitVec.getLsbD_eq_getElem hi]
  · rename_i h
    simp [show 8 + (i - 8) = i by omega, BitVec.getLsbD_eq_getElem hi]

/-- The payload length read back from its field (R71, R73). -/
theorem lengthField_toNat (data : List Byte) (h : data.length < 65536) :
    (halfWordOf (lowByte (BitVec.ofNat 16 data.length)) (highByte (BitVec.ofNat 16 data.length))).toNat = data.length := by
  rw [halfWordOf_bytes, BitVec.toNat_ofNat]
  exact Nat.mod_eq_of_lt h

/-- Taking `n` bytes succeeds exactly when they are there. -/
theorem takeBytes_ok {n : Nat} {l a b : List Byte} (h : takeBytes n l = .ok (a, b)) :
    n ≤ l.length ∧ a = l.take n ∧ b = l.drop n := by
  unfold takeBytes at h
  split at h
  · cases h
    exact ⟨‹_›, rfl, rfl⟩
  · cases h

theorem takeBytes_append (data rest : List Byte) : takeBytes data.length (data ++ rest) = .ok (data, rest) := by
  simp [takeBytes]

/-- The frame length, once it can be told, does not depend on the bytes that follow. -/
theorem frameLength_append {a : List Byte} {n : Nat} (b : List Byte) (h : frameLength a = some n) :
    frameLength (a ++ b) = some n := by
  cases a with
  | nil => cases h
  | cons op r =>
    unfold frameLength at h ⊢
    simp only [List.cons_append] at h ⊢
    rcases r with _ | ⟨x, _ | ⟨y, _ | ⟨z, r⟩⟩⟩ <;> split at h <;> first | exact h | cases h

end Sys2Proof
end

