-- ==== Sys2Proof/Laws/Layout.lean ====
section
/-! SUPPORT. The laws of the layout function's parts: the row range of a selection, cutting, marking and padding. -/

namespace Sys2Proof.Machine

/-- The first row is the lowest set bit. -/
theorem startRow_eq {sel : BitVec 4} {b : Nat} (hb : sel.getLsbD b = true) (hl : ∀ j, j < b → sel.getLsbD j = false) :
    startRow sel = b ∧ b < 4 := by
  have h4 : b < 4 := by
    by_contra hc
    rw [BitVec.getLsbD_of_ge sel b (Nat.le_of_not_lt hc)] at hb
    cases hb
  refine ⟨?_, h4⟩
  have h0 := hl 0
  have h1 := hl 1
  have h2 := hl 2
  unfold startRow
  rcases b with _ | _ | _ | _ | b
  · simp_all
  · simp_all
  · simp_all
  · simp_all
  · omega

/-- The last row is the highest set bit. -/
theorem endRow_eq {sel : BitVec 4} {e : Nat} (he : sel.getLsbD e = true) (hh : ∀ j, e < j → sel.getLsbD j = false) :
    endRow sel = e ∧ e < 4 := by
  have h4 : e < 4 := by
    by_contra hc
    rw [BitVec.getLsbD_of_ge sel e (Nat.le_of_not_lt hc)] at he
    cases he
  refine ⟨?_, h4⟩
  have h1 := hh 1
  have h2 := hh 2
  have h3 := hh 3
  unfold endRow
  rcases e with _ | _ | _ | _ | e
  · simp_all
  · simp_all
  · simp_all
  · simp_all
  · omega

/-- A selection without a row from `n` on ends before it. -/
theorem endRow_lt {sel : BitVec 4} {n : Nat} (hs : sel ≠ 0) (h : ∀ j, n ≤ j → sel.getLsbD j = false) :
    endRow sel < n := by
  have key : ∀ sel : BitVec 4, sel ≠ 0 → sel.getLsbD (endRow sel) = true := by decide
  by_contra hc
  have h1 := h (endRow sel) (Nat.le_of_not_lt hc)
  rw [key sel hs] at h1
  cases h1

theorem startRow_add_rowCount : ∀ sel : BitVec 4, sel ≠ 0 → startRow sel + rowCount sel = endRow sel + 1 := by decide

theorem chunksOf_length_le (cols n : Nat) (text : List Byte) : (chunksOf cols n text).length ≤ n := by
  induction n generalizing text with
  | zero => simp [chunksOf]
  | succ n ih =>
    cases text with
    | nil => simp [chunksOf]
    | cons x text => simpa [chunksOf] using ih _

/-- The chunks joined are the text as far as it fits. -/
theorem chunksOf_flatten (cols n : Nat) (text : List Byte) : (chunksOf cols n text).flatten = text.take (n * cols) := by
  induction n generalizing text with
  | zero => simp [chunksOf]
  | succ n ih =>
    cases text with
    | nil => simp [chunksOf]
    | cons x text =>
      rw [chunksOf, List.flatten_cons, ih, Nat.succ_mul, Nat.add_comm, List.take_add]

/-- No chunk is longer than the row. -/
theorem chunksOf_fit (cols n : Nat) (text : List Byte) : ∀ c ∈ chunksOf cols n text, c.length ≤ cols := by
  induction n generalizing text with
  | zero => simp [chunksOf]
  | succ n ih =>
    cases text with
    | nil => simp [chunksOf]
    | cons x text =>
      intro c hc
      rw [chunksOf, List.mem_cons] at hc
      rcases hc with rfl | hc
      · simp
      · exact ih _ c hc

theorem padRow_length (cols : Nat) (c : List Byte) (h : c.length ≤ cols) : (padRow cols c).length = cols := by
  simp [padRow, h]

/-- Whatever the options, a selection's layout has no more chunks than rows. -/
theorem layout_length_le (text : List Byte) (sel : BitVec 4) (ell pad : Bool) (cols : Nat) (h : sel ≠ 0) :
    (layout text sel ell pad cols).length ≤ rowCount sel := by
  have hc := chunksOf_length_le cols (rowCount sel) text
  unfold layout
  by_cases ht : text = []
  · simp [ht]
  · rw [if_neg ht, if_neg h]
    simp only
    split
    · split
      · simpa [markOverflow] using hc
      · exact hc
    · split
      · simp [padRows]
        omega
      · exact hc

end Sys2Proof.Machine
end

