-- ==== Sys2Proof/Laws/Lcd.lean ====
section
/-! SUPPORT. What the observer's operations can do to the controller, said once: delivering a word, latching a nibble, and
the three bytes of one nibble strobe. -/

namespace Sys2Proof.Machine

/-! ### Delivering a word -/

/-- A class of a word is one of the ten CMD instructions. -/
theorem decodeWord_downstream :
    ∀ w, isRequest (decodeWord w) = false ∧ (∀ d bl rs, decodeWord w ≠ .wireELow d bl rs) ∧
      (∀ d bl rs, decodeWord w ≠ .wireEHigh d bl rs) ∧ decodeWord w ≠ .initNibble8bit ∧
      decodeWord w ≠ .initNibble4bit := by decide +kernel

/-- Every delivered word is recorded, whatever its class and its effect. -/
theorem lcdDeliver_words (w : CtrlWord) (torn trusted : Bool) (l : Lcd) :
    (lcdDeliver w torn trusted l).obs.words = l.obs.words ++ [.full w torn] := by
  have hw := decodeWord_downstream w
  unfold lcdDeliver
  split <;>
    simp_all [isRequest, lcdApply, lcdClearDisplay, lcdReturnHome, lcdEntryModeSet, lcdDisplayControl,
      lcdSetCgramAddr, lcdSetDdramAddr, lcdCursorDisplayShift, lcdNoCommand00, lcdWriteData, lcdFunctionSet]

/-- Delivering a word neither holds nor drops a high nibble, and does not touch E. -/
theorem lcdDeliver_latch (w : CtrlWord) (torn trusted : Bool) (l : Lcd) :
    (lcdDeliver w torn trusted l).obs.hiNib = l.obs.hiNib ∧ (lcdDeliver w torn trusted l).obs.hiRs = l.obs.hiRs ∧
      (lcdDeliver w torn trusted l).obs.prevE = l.obs.prevE ∧
      (l.obs.phase = .high → (lcdDeliver w torn trusted l).obs.phase = .high) := by
  unfold lcdDeliver
  split <;>
    simp +contextual [lcdApply, lcdClearDisplay, lcdReturnHome, lcdEntryModeSet, lcdDisplayControl,
      lcdSetCgramAddr, lcdSetDdramAddr, lcdCursorDisplayShift, lcdNoCommand00, lcdWriteData, lcdFunctionSet]

/-- Only FUNCTION_SET changes the interface width. -/
theorem lcdDeliver_mode (w : CtrlWord) (torn trusted : Bool) (l : Lcd) :
    (lcdDeliver w torn trusted l).obs.mode = l.obs.mode ∨
      ∃ dl n f x, decodeWord w = .functionSet dl n f x ∧
        (lcdDeliver w torn trusted l).obs.mode = if dl then .eight else .four := by
  unfold lcdDeliver
  split
  case h_5 dl n f x hd => exact .inr ⟨dl, n, f, x, hd, rfl⟩
  all_goals exact .inl rfl

theorem panelWrite_framed (r : Region) (d : Byte) (p : Panel) : (panelWrite r d p).framed = p.framed := by
  have hs : ∀ q : Panel, (panelShift q).framed = q.framed := by intro q; unfold panelShift; split <;> rfl
  have ha : ∀ q : Panel, (panelAdvance r q).framed = q.framed := by intro q; unfold panelAdvance; repeat' split
                                                                    all_goals rfl
  have ht : (panelStore r d p).framed = p.framed := by
    unfold panelStore
    repeat' split
    all_goals rfl
  rw [panelWrite, hs, ha, ht]

/-- A data byte does not move the mark that the pointer stands where an upload left it. -/
@[simp] theorem panelWrite_uploaded (r : Region) (d : Byte) (p : Panel) :
    (panelWrite r d p).uploaded = p.uploaded := by
  unfold panelWrite panelShift panelAdvance panelStore
  cases r <;> simp only <;> repeat' split
  all_goals rfl

theorem panelFunction_framed (dl n f : Bool) (x : BitVec 2) (p : Panel) :
    (panelFunction dl n f x p).framed = p.framed := by
  unfold panelFunction
  repeat' split
  all_goals rfl

/-- Only a FUNCTION_SET with DL = 1 that INIT's own strobes did not make puts the controller out of step (R146). -/
theorem lcdDeliver_framed (w : CtrlWord) (torn trusted : Bool) (l : Lcd) :
    (lcdDeliver w torn trusted l).panel.framed = l.panel.framed ∨
      ∃ dl n f x, decodeWord w = .functionSet dl n f x ∧
        (lcdDeliver w torn trusted l).panel.framed = (l.panel.framed && (!dl || l.panel.resync)) := by
  have h : ∀ r m effect l', (∀ p, (effect p).framed = p.framed) →
      (lcdApply w torn trusted r m effect l').panel.framed = l'.panel.framed := by
    intro r m effect l' he
    unfold lcdApply
    cases trusted
    · rfl
    · exact he _
  unfold lcdDeliver
  split
  case h_2 x _ => exact .inl (h _ _ _ _ fun p => by cases x <;> rfl)
  case h_5 dl n f x hd => exact .inr ⟨dl, n, f, x, hd, h _ _ _ _ (panelFunction_framed dl n f x)⟩
  case h_10 d _ => exact .inl (h _ _ _ _ (panelWrite_framed _ d))
  all_goals first | exact .inl (h _ _ _ _ fun _ => rfl) | exact .inl rfl

/-- A word that is not trusted leaves nothing known of the memories (R258). -/
theorem lcdDeliver_untrusted (w : CtrlWord) (torn : Bool) (l : Lcd) :
    (lcdDeliver w torn false l).panel.ddram = [] ∧ (lcdDeliver w torn false l).panel.cgram = [] := by
  have hw := decodeWord_downstream w
  unfold lcdDeliver
  split <;>
    simp_all [isRequest, lcdApply, lcdClearDisplay, lcdReturnHome, lcdEntryModeSet, lcdDisplayControl,
      lcdSetCgramAddr, lcdSetDdramAddr, lcdCursorDisplayShift, lcdNoCommand00, lcdWriteData, lcdFunctionSet, panelAny]

/-! ### The mark that INIT is running -/

@[simp] theorem lcdResyncStart_obs (l : Lcd) : (lcdResyncStart l).obs = l.obs := rfl
@[simp] theorem lcdResyncStart_resync (l : Lcd) : (lcdResyncStart l).panel.resync = true := rfl
@[simp] theorem lcdResyncEnd_obs (l : Lcd) : (lcdResyncEnd l).obs = l.obs := rfl
@[simp] theorem lcdResyncEnd_resync (l : Lcd) : (lcdResyncEnd l).panel.resync = false := rfl
@[simp] theorem lcdResyncEnd_ddram (l : Lcd) : (lcdResyncEnd l).panel.ddram = l.panel.ddram := rfl
@[simp] theorem lcdResyncEnd_cgram (l : Lcd) : (lcdResyncEnd l).panel.cgram = l.panel.cgram := rfl
@[simp] theorem lcdResyncEnd_framed (l : Lcd) : (lcdResyncEnd l).panel.framed = l.panel.framed := rfl

/-! ### What a request's end does to the controller -/

@[simp] theorem lcdEnding_plain (l : Lcd) : lcdEnding .plain l = l := rfl
@[simp] theorem lcdEnding_init (l : Lcd) : lcdEnding .init l = lcdResyncEnd l := rfl
@[simp] theorem lcdEnding_obs (e : Ending) (l : Lcd) : (lcdEnding e l).obs = l.obs := by cases e <;> rfl
@[simp] theorem lcdEnding_framed (e : Ending) (l : Lcd) : (lcdEnding e l).panel.framed = l.panel.framed := by
  rcases e with _ | _ | ⟨_, _ | _⟩ <;> rfl
@[simp] theorem lcdEnding_ddram (e : Ending) (l : Lcd) : (lcdEnding e l).panel.ddram = l.panel.ddram := by
  rcases e with _ | _ | ⟨_, _ | _⟩ <;> rfl

/-! ### The mark INIT sets stays while words and nibbles come -/

theorem panelWrite_resync (r : Region) (d : Byte) (p : Panel) : (panelWrite r d p).resync = p.resync := by
  unfold panelWrite panelShift panelAdvance panelStore
  cases r <;> simp only <;> repeat' split
  all_goals rfl

theorem panelFunction_resync (dl n f : Bool) (x : BitVec 2) (p : Panel) :
    (panelFunction dl n f x p).resync = p.resync := by
  unfold panelFunction
  repeat' split
  all_goals rfl

/-- No word changes the mark. -/
theorem lcdDeliver_resync (w : CtrlWord) (torn trusted : Bool) (l : Lcd) :
    (lcdDeliver w torn trusted l).panel.resync = l.panel.resync := by
  have h : ∀ r m effect l', (∀ p, (effect p).resync = p.resync) → l'.panel.resync = l.panel.resync →
      (lcdApply w torn trusted r m effect l').panel.resync = l.panel.resync := by
    intro r m effect l' he hl
    unfold lcdApply
    rw [← hl]
    cases trusted
    · rfl
    · exact he _
  unfold lcdDeliver
  split
  case h_2 x _ => exact h _ _ _ _ (fun p => by cases x <;> rfl) rfl
  case h_5 dl n f x _ => exact h _ _ _ _ (panelFunction_resync dl n f x) rfl
  case h_10 d _ => exact h _ _ _ _ (panelWrite_resync _ d) rfl
  all_goals first | exact h _ _ _ _ (fun _ => rfl) rfl | rfl

/-- No nibble changes the mark. -/
theorem lcdLatch_resync (n : Nibble) (rs : Bool) (l : Lcd) : (lcdLatch n rs l).panel.resync = l.panel.resync := by
  unfold lcdLatch
  split
  · unfold lcdLatchEight
    simp only
    split
    · simp only
      split <;> rfl
    · rfl
  · unfold lcdLatchFour
    split
    · rfl
    · exact lcdDeliver_resync _ _ _ _

/-- No byte at the port changes the mark. -/
@[simp] theorem lcdObserve_resync (b : Byte) (l : Lcd) : (lcdObserve b l).panel.resync = l.panel.resync := by
  unfold lcdObserve
  simp only
  split
  · exact lcdLatch_resync _ _ l
  · rfl

/-! ### Latching a nibble -/

/-- What a nibble can do to a controller that is out of step while no INIT runs: it stays out of step, and either nothing
but the held nibble changes, or nothing is known of the memories (R146, R258). -/
theorem lcdLatch_unframed (n : Nibble) (rs : Bool) (l : Lcd) (hf : l.panel.framed = false)
    (hr : l.panel.resync = false) :
    (lcdLatch n rs l).panel.framed = false ∧
      ((lcdLatch n rs l).obs.words = l.obs.words ∧ (lcdLatch n rs l).panel = l.panel ∨
        (lcdLatch n rs l).panel.ddram = [] ∧ (lcdLatch n rs l).panel.cgram = []) := by
  unfold lcdLatch
  split
  · unfold lcdLatchEight
    cases isFunctionNibble n rs
    · exact ⟨hf, .inr ⟨rfl, rfl⟩⟩
    · simp [hf, hr, panelAny]
  · unfold lcdLatchFour
    split
    · exact ⟨hf, .inl ⟨rfl, rfl⟩⟩
    · simp only [hf, Bool.false_and]
      refine ⟨?_, .inr (lcdDeliver_untrusted _ _ _)⟩
      rcases lcdDeliver_framed (BitVec.ofBool rs ++ l.obs.hiNib ++ n) (l.obs.hiRs != rs) false
        { l with obs := { l.obs with phase := .high } } with h | ⟨dl, n', f, x, -, h⟩
      · exact h.trans hf
      · rw [h]; simp [hf]

/-- An initialisation nibble is latched as any other, but for the marks an 8-bit interface sets. -/
theorem lcdInitNibble_eq (n : Nibble) (l : Lcd) :
    lcdInitNibble n l =
      { lcdLatch n false l with panel := { (lcdLatch n false l).panel with
        configured := (lcdLatch n false l).panel.configured && decide (l.obs.mode = .four),
        framed := (lcdLatch n false l).panel.framed || (decide (l.obs.mode = .eight) && n == 0x2) } } := by
  unfold lcdInitNibble
  cases hm : l.obs.mode <;> simp

/-- E takes no part in what a nibble does. -/
theorem lcdLatch_prevE (n : Nibble) (rs e : Bool) (l : Lcd) :
    lcdLatch n rs { l with obs := { l.obs with prevE := e } } =
      { lcdLatch n rs l with obs := { (lcdLatch n rs l).obs with prevE := e } } := by
  obtain ⟨⟨mode, phase, hiNib, hiRs, prevE, region, words⟩, panel⟩ := l
  cases mode
  · simp only [lcdLatch, lcdLatchEight]
    split <;> rfl
  · cases phase
    · rfl
    · simp only [lcdLatch, lcdLatchFour, lcdDeliver]
      split <;> rfl

/-! ### The three bytes of a nibble strobe -/

/-- E rises or stays high: the observer notes it, and nothing is latched. -/
theorem lcdObserve_high (b : Byte) (l : Lcd) (h : b.getLsbD 2 = true) :
    lcdObserve b l = { l with obs := { l.obs with prevE := true } } := by
  simp only [lcdObserve, h, Bool.not_true, Bool.and_false, Bool.false_eq_true, if_false]

/-- E stays low: nothing happens. -/
theorem lcdObserve_low_low (b : Byte) (l : Lcd) (h : b.getLsbD 2 = false) (hl : l.obs.prevE = false) :
    lcdObserve b l = l := by
  obtain ⟨⟨mode, phase, hiNib, hiRs, prevE, region, words⟩, panel⟩ := l
  subst hl
  simp only [lcdObserve, h, Bool.false_and, Bool.false_eq_true, if_false]

/-- E falls: the nibble on the data lines is latched. -/
theorem lcdObserve_fall (b : Byte) (l : Lcd) (h : b.getLsbD 2 = false) (hl : l.obs.prevE = true) :
    lcdObserve b l =
      { lcdLatch (b.extractLsb' 4 4) (b.getLsbD 0) l with
        obs := { (lcdLatch (b.extractLsb' 4 4) (b.getLsbD 0) l).obs with prevE := false } } := by
  simp only [lcdObserve, h, hl, Bool.not_false, Bool.and_true, if_true]

/-- A latch byte, a strobe byte and a release byte with the same nibble and RS, from E low: the nibble is latched once. -/
theorem lcdObserve_strobe (b e : Byte) (l : Lcd) (hb : b.getLsbD 2 = false) (he : e.getLsbD 2 = true)
    (hl : l.obs.prevE = false) :
    lcdObserve b (lcdObserve e (lcdObserve b l)) =
      { lcdLatch (b.extractLsb' 4 4) (b.getLsbD 0) l with
        obs := { (lcdLatch (b.extractLsb' 4 4) (b.getLsbD 0) l).obs with prevE := false } } := by
  rw [lcdObserve_low_low b l hb hl, lcdObserve_high e l he, lcdObserve_fall b _ hb rfl, lcdLatch_prevE]

/-- A byte at the port of a controller that is out of step while no INIT runs (R146, R258). -/
theorem lcdObserve_unframed (b : Byte) (l : Lcd) (hf : l.panel.framed = false) (hr : l.panel.resync = false) :
    (lcdObserve b l).panel.framed = false ∧
      ((lcdObserve b l).obs.words = l.obs.words ∧ (lcdObserve b l).panel = l.panel ∨
        (lcdObserve b l).panel.ddram = [] ∧ (lcdObserve b l).panel.cgram = []) := by
  unfold lcdObserve
  simp only
  split
  · exact lcdLatch_unframed _ _ l hf hr
  · exact ⟨hf, .inl ⟨rfl, rfl⟩⟩

/-- The observer's E line follows the byte. -/
@[simp] theorem lcdObserve_prevE (b : Byte) (l : Lcd) : (lcdObserve b l).obs.prevE = b.getLsbD 2 := rfl

end Sys2Proof.Machine
end

