-- ==== Sys2Proof/Laws/Memory.lean ====
section
/-! SUPPORT. The laws of the controller's memories: a write keeps the canonical form, a read after a write gives the byte
written, every other address is left alone, and every operation of the controller keeps the form. -/

namespace Sys2Proof.Machine

theorem Memory.mem_write {a : Nat} {v : Byte} {m : Memory} {c : Host.Cell} (h : c ∈ Memory.write a v m) :
    c = (a, v) ∨ c ∈ m := by
  induction m with
  | nil => simpa [Memory.write] using h
  | cons x m ih =>
    obtain ⟨x, u⟩ := x
    unfold Memory.write at h
    split at h
    · simpa using h
    · split at h
      · rcases List.mem_cons.mp h with h | h
        · exact .inl h
        · exact .inr (List.mem_cons_of_mem _ h)
      · rcases List.mem_cons.mp h with h | h
        · exact .inr (by simp [h])
        · exact (ih h).imp_right (List.mem_cons_of_mem _)

theorem Memory.write_wf (a : Nat) (v : Byte) (m : Memory) (h : Memory.wf m) : Memory.wf (Memory.write a v m) := by
  induction m with
  | nil => simp [Memory.write, Memory.wf]
  | cons x m ih =>
    obtain ⟨x, u⟩ := x
    simp only [Memory.wf, List.map_cons, List.pairwise_cons, List.mem_map, forall_exists_index, and_imp,
      forall_apply_eq_imp_iff₂] at h
    unfold Memory.write
    split
    · rename_i hlt
      simp only [Memory.wf, List.map_cons, List.pairwise_cons, List.mem_cons, List.mem_map]
      refine ⟨?_, ?_, h.2⟩
      · rintro y (rfl | ⟨c, hc, rfl⟩)
        · exact hlt
        · exact Nat.lt_trans hlt (h.1 c hc)
      · rintro y ⟨c, hc, rfl⟩
        exact h.1 c hc
    · split
      · rename_i heq
        subst heq
        simp only [Memory.wf, List.map_cons, List.pairwise_cons, List.mem_map]
        exact ⟨by rintro y ⟨c, hc, rfl⟩; exact h.1 c hc, h.2⟩
      · rename_i h1 h2
        simp only [Memory.wf, List.map_cons, List.pairwise_cons, List.mem_map]
        refine ⟨?_, ih h.2⟩
        rintro y ⟨c, hc, rfl⟩
        rcases Memory.mem_write hc with rfl | hc
        · exact Nat.lt_of_le_of_ne (Nat.le_of_not_lt h1) (Ne.symm h2)
        · exact h.1 c hc

theorem Memory.write_below (n a : Nat) (v : Byte) (m : Memory) (ha : a < n) (h : Memory.below n m) :
    Memory.below n (Memory.write a v m) := by
  intro c hc
  rcases Memory.mem_write hc with rfl | hc
  · exact ha
  · exact h c hc

/-- Forgetting keeps the canonical form. -/
theorem Memory.forget_wf (lost : Nat → Bool) (m : Memory) (h : Memory.wf m) : Memory.wf (Memory.forget lost m) :=
  h.sublist ((List.filter_sublist).map _)

theorem Memory.forget_below (n : Nat) (lost : Nat → Bool) (m : Memory) (h : Memory.below n m) :
    Memory.below n (Memory.forget lost m) := fun c hc => h c (List.mem_of_mem_filter hc)

/-- A read after forgetting: nothing where the address was lost, and as before elsewhere. -/
theorem Memory.read_forget (lost : Nat → Bool) (m : Memory) (a : Nat) :
    Memory.read (Memory.forget lost m) a = if lost a then none else Memory.read m a := by
  induction m with
  | nil => simp [Memory.forget, Memory.read]
  | cons c m ih =>
    obtain ⟨x, v⟩ := c
    unfold Memory.forget at *
    rw [List.filter_cons]
    by_cases hx : x = a
    · subst hx
      cases hl : lost x <;> simp [Memory.read, hl, ih]
    · cases hl : lost x <;> simp [Memory.read, hx, ih]

/-- A read after a write gives the byte written. -/
theorem Memory.read_write_same (a : Nat) (v : Byte) (m : Memory) : Memory.read (Memory.write a v m) a = some v := by
  induction m with
  | nil => simp [Memory.write, Memory.read]
  | cons x m ih =>
    obtain ⟨x, u⟩ := x
    unfold Memory.write
    split
    · simp [Memory.read]
    · split
      · simp [Memory.read]
      · rename_i h1 h2
        simp [Memory.read, Ne.symm h2, ih]

/-- A write leaves every other address alone. -/
theorem Memory.read_write_other (a b : Nat) (v : Byte) (m : Memory) (h : b ≠ a) :
    Memory.read (Memory.write a v m) b = Memory.read m b := by
  induction m with
  | nil => simp [Memory.write, Memory.read, Ne.symm h]
  | cons x m ih =>
    obtain ⟨x, u⟩ := x
    unfold Memory.write
    split
    · simp [Memory.read, Ne.symm h]
    · split
      · rename_i heq
        subst heq
        simp [Memory.read, Ne.symm h]
      · simp [Memory.read, ih]

theorem Memory.fill_wf (n : Nat) (v : Byte) : Memory.wf (Memory.fill n v) := by
  simpa [Memory.wf, Memory.fill, Function.comp_def] using List.pairwise_lt_range

theorem Memory.fill_below (n : Nat) (v : Byte) : Memory.below n (Memory.fill n v) := by
  intro c hc
  simp only [Memory.fill, List.mem_map, List.mem_range] at hc
  obtain ⟨a, ha, rfl⟩ := hc
  exact ha

theorem Memory.read_of_mem (m : Memory) (a : Nat) (v : Byte) (h : ∀ c ∈ m, c.1 = a → c.2 = v) (hm : ∃ c ∈ m, c.1 = a) :
    Memory.read m a = some v := by
  induction m with
  | nil => simp at hm
  | cons x m ih =>
    obtain ⟨x, u⟩ := x
    unfold Memory.read
    split
    · rename_i hx
      exact congrArg some (h (x, u) (by simp) hx)
    · rename_i hx
      refine ih (fun c hc => h c (List.mem_cons_of_mem _ hc)) ?_
      obtain ⟨c, hc, hca⟩ := hm
      rcases List.mem_cons.mp hc with rfl | hc
      · exact absurd hca hx
      · exact ⟨c, hc, hca⟩

/-- Every address of a filled memory holds the byte it was filled with. -/
theorem Memory.read_fill (n a : Nat) (v : Byte) (h : a < n) : Memory.read (Memory.fill n v) a = some v := by
  refine Memory.read_of_mem _ _ _ ?_ ⟨(a, v), ?_, rfl⟩
  · intro c hc _
    simp only [Memory.fill, List.mem_map] at hc
    obtain ⟨x, -, rfl⟩ := hc
    rfl
  · simpa [Memory.fill] using h

/-! ### Every operation keeps the memories' form -/

theorem MemoryWf.empty (p : Panel) (hd : p.ddram = []) (hc : p.cgram = []) : MemoryWf p := by
  simp [MemoryWf, Memory.wf, Memory.below, hd, hc]

theorem reset_memoryWf : MemoryWf State.reset.lcd.panel := MemoryWf.empty _ rfl rfl

theorem panelAny_memoryWf (p : Panel) : MemoryWf (panelAny p) := MemoryWf.empty _ rfl rfl

theorem panelClear_memoryWf (p : Panel) (h : MemoryWf p) : MemoryWf (panelClear p) :=
  ⟨Memory.fill_wf _ _, Memory.fill_below _ _, h.2.2⟩

theorem panelFunction_memoryWf (dl n f : Bool) (x : BitVec 2) (p : Panel) (h : MemoryWf p) :
    MemoryWf (panelFunction dl n f x p) := by
  unfold panelFunction
  split
  · split
    · exact h
    · exact MemoryWf.empty _ rfl rfl
  · split
    · exact panelAny_memoryWf p
    · split
      · exact panelAny_memoryWf p
      · exact h

theorem panelStore_memoryWf (r : Region) (d : Byte) (p : Panel) (h : MemoryWf p) : MemoryWf (panelStore r d p) := by
  cases r with
  | ddram => exact ⟨Memory.write_wf _ _ _ h.1, Memory.write_below _ _ _ _ p.ac.isLt h.2.1, h.2.2⟩
  | cgram =>
    unfold panelStore
    simp only
    split
    · exact ⟨h.1, h.2.1, List.Pairwise.nil, by simp [Memory.below]⟩
    · split
      · rename_i ha
        exact ⟨h.1, h.2.1, Memory.write_wf _ _ _ h.2.2.1, Memory.write_below _ _ _ _ ha h.2.2.2⟩
      · exact h
  | unknown => exact MemoryWf.empty _ rfl rfl

theorem panelAdvance_memories (r : Region) (p : Panel) :
    (panelAdvance r p).ddram = p.ddram ∧ (panelAdvance r p).cgram = p.cgram := by
  unfold panelAdvance; repeat' split
  all_goals exact ⟨rfl, rfl⟩

theorem panelShift_memories (p : Panel) : (panelShift p).ddram = p.ddram ∧ (panelShift p).cgram = p.cgram := by
  unfold panelShift; split <;> exact ⟨rfl, rfl⟩

theorem panelWrite_memories (r : Region) (d : Byte) (p : Panel) :
    (panelWrite r d p).ddram = (panelStore r d p).ddram ∧ (panelWrite r d p).cgram = (panelStore r d p).cgram := by
  unfold panelWrite
  rw [(panelShift_memories _).1, (panelShift_memories _).2]
  exact panelAdvance_memories _ _

theorem panelWrite_memoryWf (r : Region) (d : Byte) (p : Panel) (h : MemoryWf p) : MemoryWf (panelWrite r d p) := by
  have hs := panelStore_memoryWf r d p h
  unfold MemoryWf at hs ⊢
  rw [(panelWrite_memories r d p).1, (panelWrite_memories r d p).2]
  exact hs

theorem lcdApply_memoryWf (w : CtrlWord) (torn trusted : Bool) (region : Region) (mode : Mode) (effect : Panel → Panel)
    (l : Lcd) (he : MemoryWf l.panel → MemoryWf (effect l.panel)) (h : MemoryWf l.panel) :
    MemoryWf (lcdApply w torn trusted region mode effect l).panel := by
  unfold lcdApply
  cases trusted
  · exact panelAny_memoryWf _
  · exact he h

theorem lcdDeliver_memoryWf (w : CtrlWord) (torn trusted : Bool) (l : Lcd) (h : MemoryWf l.panel) :
    MemoryWf (lcdDeliver w torn trusted l).panel := by
  unfold lcdDeliver
  split
  case h_1 => exact lcdApply_memoryWf _ _ _ _ _ _ _ (panelClear_memoryWf _) h
  case h_2 x _ =>
    refine lcdApply_memoryWf _ _ _ _ _ _ _ (fun hp => ?_) h
    cases x
    · exact hp
    · exact panelAny_memoryWf _
  case h_5 => exact lcdApply_memoryWf _ _ _ _ _ _ _ (panelFunction_memoryWf _ _ _ _ _) h
  case h_8 => exact lcdApply_memoryWf _ _ _ _ _ _ _ (fun _ => panelAny_memoryWf _) h
  case h_9 => exact lcdApply_memoryWf _ _ _ _ _ _ _ (fun _ => panelAny_memoryWf _) h
  case h_10 => exact lcdApply_memoryWf _ _ _ _ _ _ _ (panelWrite_memoryWf _ _ _) h
  all_goals first | exact h | exact lcdApply_memoryWf _ _ _ _ _ _ _ (fun hp => hp) h

theorem lcdLatchEight_memoryWf (n : Nibble) (rs : Bool) (l : Lcd) (h : MemoryWf l.panel) :
    MemoryWf (lcdLatchEight n rs l).panel := by
  unfold lcdLatchEight
  cases hn : isFunctionNibble n rs
  · exact panelAny_memoryWf _
  · cases hf : l.panel.framed
    · simpa [hf] using panelAny_memoryWf l.panel
    · simpa [hf, panelResync] using h

theorem lcdLatch_memoryWf (n : Nibble) (rs : Bool) (l : Lcd) (h : MemoryWf l.panel) :
    MemoryWf (lcdLatch n rs l).panel := by
  unfold lcdLatch
  split
  · exact lcdLatchEight_memoryWf n rs l h
  · unfold lcdLatchFour
    split
    · exact h
    · exact lcdDeliver_memoryWf _ _ _ _ h

theorem lcdInitNibble_memoryWf (n : Nibble) (l : Lcd) (h : MemoryWf l.panel) :
    MemoryWf (lcdInitNibble n l).panel := by
  have hl := lcdLatch_memoryWf n false l h
  unfold lcdInitNibble
  split <;> exact hl

theorem lcdObserve_memoryWf (b : Byte) (l : Lcd) (h : MemoryWf l.panel) : MemoryWf (lcdObserve b l).panel := by
  unfold lcdObserve
  simp only
  split
  · exact lcdLatch_memoryWf _ _ l h
  · exact h

theorem lcdAbort_memoryWf (l : Lcd) (h : MemoryWf l.panel) : MemoryWf (lcdAbort l).panel := by
  unfold lcdAbort
  split
  · exact MemoryWf.empty _ rfl rfl
  · exact h

theorem lcdEnding_memoryWf (e : Ending) (l : Lcd) (h : MemoryWf l.panel) : MemoryWf (lcdEnding e l).panel := by
  cases e with
  | plain => exact h
  | init => exact h
  | glyph slot long =>
    cases long
    · exact h
    · exact ⟨h.1, h.2.1, Memory.forget_wf _ _ h.2.2.1, Memory.forget_below _ _ _ h.2.2.2⟩

theorem lcdResyncStart_memoryWf (l : Lcd) (h : MemoryWf l.panel) : MemoryWf (lcdResyncStart l).panel := h

theorem lcdResyncEnd_memoryWf (l : Lcd) (h : MemoryWf l.panel) : MemoryWf (lcdResyncEnd l).panel := h

end Sys2Proof.Machine
end

