-- ==== Sys2Proof/Laws/State.lean ====
section
/-! SUPPORT. One lemma per field per named update of State, each true by unfolding the update once, so that no later proof
unfolds one. -/

namespace Sys2Proof.Machine

/-! ### reach -/

@[simp] theorem reach_life (b : Byte) (s : State) : (reach b s).life = s.life := rfl
@[simp] theorem reach_geomRows (b : Byte) (s : State) : (reach b s).geomRows = s.geomRows := rfl
@[simp] theorem reach_geomCols (b : Byte) (s : State) : (reach b s).geomCols = s.geomCols := rfl
@[simp] theorem reach_devAddr (b : Byte) (s : State) : (reach b s).devAddr = s.devAddr := rfl
@[simp] theorem reach_optClamp (b : Byte) (s : State) : (reach b s).optClamp = s.optClamp := rfl
@[simp] theorem reach_optFont (b : Byte) (s : State) : (reach b s).optFont = s.optFont := rfl
@[simp] theorem reach_entry (b : Byte) (s : State) : (reach b s).entry = s.entry := rfl
@[simp] theorem reach_dispctl (b : Byte) (s : State) : (reach b s).dispctl = s.dispctl := rfl
@[simp] theorem reach_funcset (b : Byte) (s : State) : (reach b s).funcset = s.funcset := rfl
@[simp] theorem reach_bl (b : Byte) (s : State) : (reach b s).bl = s.bl := rfl
@[simp] theorem reach_expLatch (b : Byte) (s : State) : (reach b s).expLatch = b := rfl
@[simp] theorem reach_seq (b : Byte) (s : State) : (reach b s).seq = s.seq := rfl
@[simp] theorem reach_lcd (b : Byte) (s : State) : (reach b s).lcd = lcdObserve b s.lcd := rfl
@[simp] theorem reach_timing (b : Byte) (s : State) : (reach b s).timing = s.timing := rfl
@[simp] theorem reach_trace (b : Byte) (s : State) : (reach b s).trace = s.trace := rfl
@[simp] theorem reach_result (b : Byte) (s : State) : (reach b s).result = s.result := rfl
@[simp] theorem reach_rx (b : Byte) (s : State) : (reach b s).rx = s.rx := rfl
@[simp] theorem reach_arrivals (b : Byte) (s : State) : (reach b s).arrivals = s.arrivals := rfl
@[simp] theorem reach_answers (b : Byte) (s : State) : (reach b s).answers = s.answers := rfl
@[simp] theorem reach_draws (b : Byte) (s : State) : (reach b s).draws = s.draws := rfl

/-! ### endRequest -/

@[simp] theorem endRequest_life (r : Result) (s : State) : (endRequest r s).life = s.life := rfl
@[simp] theorem endRequest_geomRows (r : Result) (s : State) : (endRequest r s).geomRows = s.geomRows := rfl
@[simp] theorem endRequest_geomCols (r : Result) (s : State) : (endRequest r s).geomCols = s.geomCols := rfl
@[simp] theorem endRequest_devAddr (r : Result) (s : State) : (endRequest r s).devAddr = s.devAddr := rfl
@[simp] theorem endRequest_optClamp (r : Result) (s : State) : (endRequest r s).optClamp = s.optClamp := rfl
@[simp] theorem endRequest_optFont (r : Result) (s : State) : (endRequest r s).optFont = s.optFont := rfl
@[simp] theorem endRequest_entry (r : Result) (s : State) : (endRequest r s).entry = s.entry := rfl
@[simp] theorem endRequest_dispctl (r : Result) (s : State) : (endRequest r s).dispctl = s.dispctl := rfl
@[simp] theorem endRequest_funcset (r : Result) (s : State) : (endRequest r s).funcset = s.funcset := rfl
@[simp] theorem endRequest_bl (r : Result) (s : State) : (endRequest r s).bl = s.bl := rfl
@[simp] theorem endRequest_expLatch (r : Result) (s : State) : (endRequest r s).expLatch = s.expLatch := rfl
@[simp] theorem endRequest_seq (r : Result) (s : State) : (endRequest r s).seq = .idle := rfl
@[simp] theorem endRequest_lcd (r : Result) (s : State) : (endRequest r s).lcd = s.lcd := rfl
@[simp] theorem endRequest_timing (r : Result) (s : State) : (endRequest r s).timing = s.timing := rfl
@[simp] theorem endRequest_trace (r : Result) (s : State) : (endRequest r s).trace = s.trace := rfl
@[simp] theorem endRequest_result (r : Result) (s : State) : (endRequest r s).result = some r := rfl
@[simp] theorem endRequest_rx (r : Result) (s : State) : (endRequest r s).rx = s.rx := rfl
@[simp] theorem endRequest_arrivals (r : Result) (s : State) : (endRequest r s).arrivals = s.arrivals := rfl
@[simp] theorem endRequest_answers (r : Result) (s : State) : (endRequest r s).answers = s.answers := rfl
@[simp] theorem endRequest_draws (r : Result) (s : State) : (endRequest r s).draws = s.draws := rfl

/-! ### startSeq -/

@[simp] theorem startSeq_life (e : Ending) (ops : List Op) (s : State) : (startSeq e ops s).life = s.life := rfl
@[simp] theorem startSeq_geomRows (e : Ending) (ops : List Op) (s : State) : (startSeq e ops s).geomRows = s.geomRows := rfl
@[simp] theorem startSeq_geomCols (e : Ending) (ops : List Op) (s : State) : (startSeq e ops s).geomCols = s.geomCols := rfl
@[simp] theorem startSeq_devAddr (e : Ending) (ops : List Op) (s : State) : (startSeq e ops s).devAddr = s.devAddr := rfl
@[simp] theorem startSeq_optClamp (e : Ending) (ops : List Op) (s : State) : (startSeq e ops s).optClamp = s.optClamp := rfl
@[simp] theorem startSeq_optFont (e : Ending) (ops : List Op) (s : State) : (startSeq e ops s).optFont = s.optFont := rfl
@[simp] theorem startSeq_entry (e : Ending) (ops : List Op) (s : State) : (startSeq e ops s).entry = s.entry := rfl
@[simp] theorem startSeq_dispctl (e : Ending) (ops : List Op) (s : State) : (startSeq e ops s).dispctl = s.dispctl := rfl
@[simp] theorem startSeq_funcset (e : Ending) (ops : List Op) (s : State) : (startSeq e ops s).funcset = s.funcset := rfl
@[simp] theorem startSeq_bl (e : Ending) (ops : List Op) (s : State) : (startSeq e ops s).bl = s.bl := rfl
@[simp] theorem startSeq_expLatch (e : Ending) (ops : List Op) (s : State) : (startSeq e ops s).expLatch = s.expLatch := rfl
@[simp] theorem startSeq_seq (e : Ending) (ops : List Op) (s : State) : (startSeq e ops s).seq = .busy ops 0 e := rfl
@[simp] theorem startSeq_lcd (e : Ending) (ops : List Op) (s : State) : (startSeq e ops s).lcd = s.lcd := rfl
@[simp] theorem startSeq_timing (e : Ending) (ops : List Op) (s : State) : (startSeq e ops s).timing = s.timing := rfl
@[simp] theorem startSeq_trace (e : Ending) (ops : List Op) (s : State) : (startSeq e ops s).trace = s.trace := rfl
@[simp] theorem startSeq_result (e : Ending) (ops : List Op) (s : State) : (startSeq e ops s).result = s.result := rfl
@[simp] theorem startSeq_rx (e : Ending) (ops : List Op) (s : State) : (startSeq e ops s).rx = s.rx := rfl
@[simp] theorem startSeq_arrivals (e : Ending) (ops : List Op) (s : State) : (startSeq e ops s).arrivals = s.arrivals := rfl
@[simp] theorem startSeq_answers (e : Ending) (ops : List Op) (s : State) : (startSeq e ops s).answers = s.answers := rfl
@[simp] theorem startSeq_draws (e : Ending) (ops : List Op) (s : State) : (startSeq e ops s).draws = s.draws := rfl

/-! ### initRegisters -/

section
variable (rows cols : Byte) (addr : HalfWord) (clamp font backlight : Bool) (s : State)

@[simp] theorem initRegisters_life :
    (initRegisters rows cols addr clamp font backlight s).life = .uninitialized := rfl
@[simp] theorem initRegisters_geomRows :
    (initRegisters rows cols addr clamp font backlight s).geomRows = rows := rfl
@[simp] theorem initRegisters_geomCols :
    (initRegisters rows cols addr clamp font backlight s).geomCols = cols := rfl
@[simp] theorem initRegisters_devAddr :
    (initRegisters rows cols addr clamp font backlight s).devAddr = addr := rfl
@[simp] theorem initRegisters_optClamp :
    (initRegisters rows cols addr clamp font backlight s).optClamp = clamp := rfl
@[simp] theorem initRegisters_optFont :
    (initRegisters rows cols addr clamp font backlight s).optFont = font := rfl
@[simp] theorem initRegisters_entry :
    (initRegisters rows cols addr clamp font backlight s).entry = entryOfInit := rfl
@[simp] theorem initRegisters_dispctl :
    (initRegisters rows cols addr clamp font backlight s).dispctl = dispctlOfInit := rfl
@[simp] theorem initRegisters_funcset :
    (initRegisters rows cols addr clamp font backlight s).funcset = funcsetOf rows font := rfl
@[simp] theorem initRegisters_bl :
    (initRegisters rows cols addr clamp font backlight s).bl = backlight := rfl
@[simp] theorem initRegisters_expLatch :
    (initRegisters rows cols addr clamp font backlight s).expLatch = s.expLatch := rfl
@[simp] theorem initRegisters_seq :
    (initRegisters rows cols addr clamp font backlight s).seq = s.seq := rfl
@[simp] theorem initRegisters_lcd :
    (initRegisters rows cols addr clamp font backlight s).lcd = lcdResyncStart s.lcd := rfl
@[simp] theorem initRegisters_timing :
    (initRegisters rows cols addr clamp font backlight s).timing = s.timing := rfl
@[simp] theorem initRegisters_trace :
    (initRegisters rows cols addr clamp font backlight s).trace = s.trace := rfl
@[simp] theorem initRegisters_result :
    (initRegisters rows cols addr clamp font backlight s).result = s.result := rfl
@[simp] theorem initRegisters_rx :
    (initRegisters rows cols addr clamp font backlight s).rx = s.rx := rfl
@[simp] theorem initRegisters_arrivals :
    (initRegisters rows cols addr clamp font backlight s).arrivals = s.arrivals := rfl
@[simp] theorem initRegisters_answers :
    (initRegisters rows cols addr clamp font backlight s).answers = s.answers := rfl
@[simp] theorem initRegisters_draws :
    (initRegisters rows cols addr clamp font backlight s).draws = s.draws := rfl

end

/-! ### consumeAnswer -/

@[simp] theorem consumeAnswer_life (s : State) : (consumeAnswer s).life = s.life := by
  unfold consumeAnswer; split <;> rfl
@[simp] theorem consumeAnswer_geomRows (s : State) : (consumeAnswer s).geomRows = s.geomRows := by
  unfold consumeAnswer; split <;> rfl
@[simp] theorem consumeAnswer_geomCols (s : State) : (consumeAnswer s).geomCols = s.geomCols := by
  unfold consumeAnswer; split <;> rfl
@[simp] theorem consumeAnswer_devAddr (s : State) : (consumeAnswer s).devAddr = s.devAddr := by
  unfold consumeAnswer; split <;> rfl
@[simp] theorem consumeAnswer_optClamp (s : State) : (consumeAnswer s).optClamp = s.optClamp := by
  unfold consumeAnswer; split <;> rfl
@[simp] theorem consumeAnswer_optFont (s : State) : (consumeAnswer s).optFont = s.optFont := by
  unfold consumeAnswer; split <;> rfl
@[simp] theorem consumeAnswer_entry (s : State) : (consumeAnswer s).entry = s.entry := by
  unfold consumeAnswer; split <;> rfl
@[simp] theorem consumeAnswer_dispctl (s : State) : (consumeAnswer s).dispctl = s.dispctl := by
  unfold consumeAnswer; split <;> rfl
@[simp] theorem consumeAnswer_funcset (s : State) : (consumeAnswer s).funcset = s.funcset := by
  unfold consumeAnswer; split <;> rfl
@[simp] theorem consumeAnswer_bl (s : State) : (consumeAnswer s).bl = s.bl := by
  unfold consumeAnswer; split <;> rfl
@[simp] theorem consumeAnswer_expLatch (s : State) : (consumeAnswer s).expLatch = s.expLatch := by
  unfold consumeAnswer; split <;> rfl
@[simp] theorem consumeAnswer_seq (s : State) : (consumeAnswer s).seq = s.seq := by
  unfold consumeAnswer; split <;> rfl
@[simp] theorem consumeAnswer_lcd (s : State) : (consumeAnswer s).lcd = s.lcd := by
  unfold consumeAnswer; split <;> rfl
@[simp] theorem consumeAnswer_timing (s : State) : (consumeAnswer s).timing = s.timing := by
  unfold consumeAnswer; split <;> rfl
@[simp] theorem consumeAnswer_trace (s : State) : (consumeAnswer s).trace = s.trace := by
  unfold consumeAnswer; split <;> rfl
@[simp] theorem consumeAnswer_result (s : State) : (consumeAnswer s).result = s.result := by
  unfold consumeAnswer; split <;> rfl
@[simp] theorem consumeAnswer_rx (s : State) : (consumeAnswer s).rx = s.rx := by
  unfold consumeAnswer; split <;> rfl
@[simp] theorem consumeAnswer_arrivals (s : State) : (consumeAnswer s).arrivals = s.arrivals := by
  unfold consumeAnswer; split <;> rfl

theorem consumeAnswer_cons (a : Answer) (rest : List Answer) (s : State) (h : s.answers = a :: rest) :
    consumeAnswer s = { s with answers := rest } := by
  unfold consumeAnswer; rw [h]

theorem nextAnswer_cons (a : Answer) (rest : List Answer) (s : State) (h : s.answers = a :: rest) :
    nextAnswer s = a := by
  unfold nextAnswer; rw [h]

/-! ### sentOk and answered -/

@[simp] theorem sentOk_life (s : State) (evs : List Event) (rest : List Answer) :
    (sentOk s evs rest).life = s.life := rfl
@[simp] theorem sentOk_geomRows (s : State) (evs : List Event) (rest : List Answer) :
    (sentOk s evs rest).geomRows = s.geomRows := rfl
@[simp] theorem sentOk_geomCols (s : State) (evs : List Event) (rest : List Answer) :
    (sentOk s evs rest).geomCols = s.geomCols := rfl
@[simp] theorem sentOk_devAddr (s : State) (evs : List Event) (rest : List Answer) :
    (sentOk s evs rest).devAddr = s.devAddr := rfl
@[simp] theorem sentOk_optClamp (s : State) (evs : List Event) (rest : List Answer) :
    (sentOk s evs rest).optClamp = s.optClamp := rfl
@[simp] theorem sentOk_optFont (s : State) (evs : List Event) (rest : List Answer) :
    (sentOk s evs rest).optFont = s.optFont := rfl
@[simp] theorem sentOk_entry (s : State) (evs : List Event) (rest : List Answer) :
    (sentOk s evs rest).entry = s.entry := rfl
@[simp] theorem sentOk_dispctl (s : State) (evs : List Event) (rest : List Answer) :
    (sentOk s evs rest).dispctl = s.dispctl := rfl
@[simp] theorem sentOk_funcset (s : State) (evs : List Event) (rest : List Answer) :
    (sentOk s evs rest).funcset = s.funcset := rfl
@[simp] theorem sentOk_bl (s : State) (evs : List Event) (rest : List Answer) :
    (sentOk s evs rest).bl = s.bl := rfl
@[simp] theorem sentOk_expLatch (s : State) (evs : List Event) (rest : List Answer) :
    (sentOk s evs rest).expLatch = (sentBytes evs).getLastD s.expLatch := rfl
@[simp] theorem sentOk_seq (s : State) (evs : List Event) (rest : List Answer) :
    (sentOk s evs rest).seq = s.seq := rfl
@[simp] theorem sentOk_lcd (s : State) (evs : List Event) (rest : List Answer) :
    (sentOk s evs rest).lcd = observeAll (sentBytes evs) s.lcd := rfl
@[simp] theorem sentOk_timing (s : State) (evs : List Event) (rest : List Answer) :
    (sentOk s evs rest).timing = s.timing := rfl
@[simp] theorem sentOk_trace (s : State) (evs : List Event) (rest : List Answer) :
    (sentOk s evs rest).trace = evs := rfl
@[simp] theorem sentOk_result (s : State) (evs : List Event) (rest : List Answer) :
    (sentOk s evs rest).result = some .ok := rfl
@[simp] theorem sentOk_rx (s : State) (evs : List Event) (rest : List Answer) :
    (sentOk s evs rest).rx = s.rx := rfl
@[simp] theorem sentOk_arrivals (s : State) (evs : List Event) (rest : List Answer) :
    (sentOk s evs rest).arrivals = s.arrivals := rfl
@[simp] theorem sentOk_answers (s : State) (evs : List Event) (rest : List Answer) :
    (sentOk s evs rest).answers = rest := rfl
@[simp] theorem sentOk_draws (s : State) (evs : List Event) (rest : List Answer) :
    (sentOk s evs rest).draws = s.draws := rfl
@[simp] theorem answered_life (s : State) (r : Result) : (answered s r).life = s.life := rfl
@[simp] theorem answered_geomRows (s : State) (r : Result) : (answered s r).geomRows = s.geomRows := rfl
@[simp] theorem answered_geomCols (s : State) (r : Result) : (answered s r).geomCols = s.geomCols := rfl
@[simp] theorem answered_devAddr (s : State) (r : Result) : (answered s r).devAddr = s.devAddr := rfl
@[simp] theorem answered_optClamp (s : State) (r : Result) : (answered s r).optClamp = s.optClamp := rfl
@[simp] theorem answered_optFont (s : State) (r : Result) : (answered s r).optFont = s.optFont := rfl
@[simp] theorem answered_entry (s : State) (r : Result) : (answered s r).entry = s.entry := rfl
@[simp] theorem answered_dispctl (s : State) (r : Result) : (answered s r).dispctl = s.dispctl := rfl
@[simp] theorem answered_funcset (s : State) (r : Result) : (answered s r).funcset = s.funcset := rfl
@[simp] theorem answered_bl (s : State) (r : Result) : (answered s r).bl = s.bl := rfl
@[simp] theorem answered_expLatch (s : State) (r : Result) : (answered s r).expLatch = s.expLatch := rfl
@[simp] theorem answered_seq (s : State) (r : Result) : (answered s r).seq = s.seq := rfl
@[simp] theorem answered_lcd (s : State) (r : Result) : (answered s r).lcd = s.lcd := rfl
@[simp] theorem answered_timing (s : State) (r : Result) : (answered s r).timing = s.timing := rfl
@[simp] theorem answered_trace (s : State) (r : Result) : (answered s r).trace = [] := rfl
@[simp] theorem answered_result (s : State) (r : Result) : (answered s r).result = some r := rfl
@[simp] theorem answered_rx (s : State) (r : Result) : (answered s r).rx = s.rx := rfl
@[simp] theorem answered_arrivals (s : State) (r : Result) : (answered s r).arrivals = s.arrivals := rfl
@[simp] theorem answered_answers (s : State) (r : Result) : (answered s r).answers = s.answers := rfl
@[simp] theorem answered_draws (s : State) (r : Result) : (answered s r).draws = s.draws := rfl

end Sys2Proof.Machine
end

