-- ==== Sys2Proof/Laws/Ops.lean ====
section
/-! SUPPORT. What each shared operation of Machine/Ops.lean can do, said once: acceptance, one micro-op, a list of
micro-ops that all complete, one that fails, and the frame of a whole request. -/

namespace Sys2Proof.Machine

/-! ### Acceptance -/

theorem acceptIdle_idle (s : State) (body : State → StepOutcome) (h : s.seq = .idle) :
    acceptIdle s body = body { s with trace := [], result := none } := by
  unfold acceptIdle; rw [h]

theorem acceptIdle_busy (s : State) (body : State → StepOutcome) (h : s.seq ≠ .idle) :
    acceptIdle s body = .refused .requestWhileBusy := by
  unfold acceptIdle
  split
  · exact absurd ‹_› h
  · rfl

theorem acceptReady_ready (s : State) (body : State → StepOutcome) (h : Accepts s) :
    acceptReady s body = body { s with trace := [], result := none } := by
  unfold acceptReady
  rw [acceptIdle_idle _ _ h.1]
  simp only [h.2]

theorem acceptReady_uninitialized (s : State) (body : State → StepOutcome) (h : s.seq = .idle)
    (hl : s.life = .uninitialized) : acceptReady s body = .next (answered s .uninitialized) := by
  unfold acceptReady
  rw [acceptIdle_idle _ _ h]
  simp only [hl, endRequest, answered, h]

/-- Everything acceptance can do with a request that needs a Ready block. -/
theorem acceptReady_cases (s : State) (body : State → StepOutcome) :
    (s.seq ≠ .idle ∧ acceptReady s body = .refused .requestWhileBusy) ∨
    (s.seq = .idle ∧ s.life = .uninitialized ∧ acceptReady s body = .next (answered s .uninitialized)) ∨
    (Accepts s ∧ acceptReady s body = body { s with trace := [], result := none }) := by
  by_cases hs : s.seq = .idle
  · rcases hl : s.life with _ | _
    · exact .inr (.inl ⟨hs, rfl, acceptReady_uninitialized s body hs hl⟩)
    · exact .inr (.inr ⟨⟨hs, hl⟩, by rw [acceptReady_ready s body ⟨hs, hl⟩, hl]⟩)
  · exact .inl ⟨hs, by unfold acceptReady; exact acceptIdle_busy _ _ hs⟩

/-! ### One micro-op -/

/-- A Tx the transport answers Ok. -/
theorem transmit_ok (b : Byte) (s : State) (rest : List Answer) (h : s.answers = .ok :: rest) :
    transmit b s = .going (reach b { s with answers := rest, trace := s.trace ++ [.tx s.devAddr b .ok] }) := by
  simp only [transmit, nextAnswer_cons _ _ _ h, consumeAnswer_cons _ _ _ h]

/-- A Tx the transport answers Err. -/
theorem transmit_err (b : Byte) (s : State) (info : BusErrorInfo) (took : Bool) (rest : List Answer)
    (h : s.answers = .err info took :: rest) :
    transmit b s =
      .failed info
        (if took then reach b { s with answers := rest, trace := s.trace ++ [.tx s.devAddr b (.err info took)] }
         else { s with answers := rest, trace := s.trace ++ [.tx s.devAddr b (.err info took)] }) := by
  simp only [transmit, nextAnswer_cons _ _ _ h, consumeAnswer_cons _ _ _ h]

/-- The frame of a micro-op: it changes only the trace, the port, the controller and the transport's answers. -/
def WireOnly (s t : State) : Prop :=
  t = { s with trace := t.trace, expLatch := t.expLatch, lcd := t.lcd, answers := t.answers, draws := t.draws }

theorem WireOnly.refl (s : State) : WireOnly s s := rfl

theorem WireOnly.trans {s t u : State} (h : WireOnly s t) (h' : WireOnly t u) : WireOnly s u := by
  unfold WireOnly at *
  rw [h'] at ⊢
  rw [h]

/-- The state a micro-op leaves, whether it completed or failed. -/
def Progress.state : Progress → State
  | .going s => s
  | .failed _ s => s

theorem reach_wireOnly (b : Byte) (s : State) : WireOnly s (reach b s) := rfl

theorem consumeAnswer_wireOnly (s : State) : WireOnly s (consumeAnswer s) := by
  unfold consumeAnswer WireOnly; split <;> rfl

theorem transmit_wireOnly (b : Byte) (s : State) : WireOnly s (transmit b s).state := by
  have h1 : ∀ a, WireOnly s { consumeAnswer s with trace := s.trace ++ [.tx s.devAddr b a] } := by
    intro a
    have hc := consumeAnswer_wireOnly s
    unfold WireOnly at *; rw [hc]
  unfold transmit
  cases nextAnswer s with
  | ok => exact (h1 _).trans (reach_wireOnly b _)
  | err info took =>
    cases took
    · exact h1 _
    · exact (h1 _).trans (reach_wireOnly b _)

theorem issue_wireOnly (op : Op) (s : State) : WireOnly s (issue op s).state := by
  cases op with
  | tx n rs e => exact transmit_wireOnly _ s
  | delay t => rfl

theorem runOps_wireOnly (ops : List Op) (s : State) : WireOnly s (runOps ops s).state := by
  induction ops generalizing s with
  | nil => rfl
  | cons op ops ih =>
    have h := issue_wireOnly op s
    unfold runOps
    cases hi : issue op s with
    | going s' => rw [hi] at h; exact WireOnly.trans h (ih s')
    | failed info s' => rw [hi] at h; exact h

/-! ### Lists of micro-ops -/

theorem runOps_append (a b : List Op) (s : State) :
    runOps (a ++ b) s = match runOps a s with
      | .going s' => runOps b s'
      | .failed info s' => .failed info s' := by
  induction a generalizing s with
  | nil => rfl
  | cons op a ih =>
    simp only [List.cons_append, runOps]
    cases issue op s with
    | going s' => exact ih s'
    | failed info s' => rfl

@[simp] theorem observeAll_nil (l : Lcd) : observeAll [] l = l := rfl

@[simp] theorem observeAll_cons (b : Byte) (bs : List Byte) (l : Lcd) :
    observeAll (b :: bs) l = observeAll bs (lcdObserve b l) := rfl

theorem observeAll_append (a b : List Byte) (l : Lcd) : observeAll (a ++ b) l = observeAll b (observeAll a l) := by
  simp [observeAll]

@[simp] theorem sentBytes_append (a b : List Event) : sentBytes (a ++ b) = sentBytes a ++ sentBytes b := by
  induction a with
  | nil => rfl
  | cons e a ih => cases e <;> simp [sentBytes, ih]

/-- Every Tx answered Ok: the events are appended in order, and every byte reached the port. -/
theorem runOps_all_ok (ops : List Op) (s : State) (rest : List Answer)
    (h : AnswersOk (opTxCount ops) rest s) :
    runOps ops s =
      .going { s with
        trace := s.trace ++ opEvents s.devAddr s.bl ops, answers := rest,
        expLatch := (sentBytes (opEvents s.devAddr s.bl ops)).getLastD s.expLatch,
        lcd := observeAll (sentBytes (opEvents s.devAddr s.bl ops)) s.lcd } := by
  induction ops generalizing s with
  | nil =>
    have h' : s.answers = rest := by simpa [AnswersOk, opTxCount] using h
    simp [runOps, opEvents, sentBytes, ← h']
  | cons op ops ih =>
    cases op with
    | delay t =>
      simp only [runOps, issue]
      rw [ih _ (by simpa [AnswersOk, opTxCount] using h)]
      simp [opEvents, sentBytes]
    | tx n rs e =>
      have ha : s.answers = .ok :: (List.replicate (opTxCount ops) .ok ++ rest) := by
        simpa [AnswersOk, opTxCount, List.replicate_succ] using h
      simp only [runOps, issue, transmit_ok _ _ _ ha]
      rw [ih _ rfl]
      simp [opEvents, sentBytes, reach, List.getLast?_cons]

/-- A whole request whose Tx are all answered Ok. -/
theorem perform_all_ok (e : Ending) (ops : List Op) (s : State) (rest : List Answer)
    (h : AnswersOk (opTxCount ops) rest s) (ht : s.trace = []) :
    perform e ops s =
      { sentOk s (opEvents s.devAddr s.bl ops) rest with
        seq := .idle, life := lifeEnding e s.life,
        lcd := lcdEnding e (observeAll (sentBytes (opEvents s.devAddr s.bl ops)) s.lcd) } := by
  unfold perform
  rw [runOps_all_ok ops (startSeq e ops s) rest h]
  simp [finish, endRequest, startSeq, sentOk, ht]

/-- The same for a request other than INIT, as an accepted request begins: the answer is exactly `sentOk`. -/
theorem perform_sentOk (ops : List Op) (s : State) (rest : List Answer) (h : AnswersOk (opTxCount ops) rest s)
    (hs : s.seq = .idle) :
    perform .plain ops { s with trace := [], result := none } = sentOk s (opEvents s.devAddr s.bl ops) rest := by
  refine (perform_all_ok .plain ops { s with trace := [], result := none } rest h rfl).trans ?_
  simp [sentOk, hs, lifeEnding, lcdEnding]

@[simp] theorem opTxCount_append (a b : List Op) : opTxCount (a ++ b) = opTxCount a + opTxCount b := by
  induction a with
  | nil => simp [opTxCount]
  | cons op a ih => cases op <;> simp [opTxCount, ih]; all_goals omega

@[simp] theorem opEvents_append (addr : HalfWord) (bl : Bool) (a b : List Op) :
    opEvents addr bl (a ++ b) = opEvents addr bl a ++ opEvents addr bl b := by
  induction a with
  | nil => rfl
  | cons op a ih => cases op <;> simp [opEvents, ih]

@[simp] theorem opTxCount_nibOps (t : Timing) (n : Byte) (rs : Bool) (settle : Nat) :
    opTxCount (nibOps t n rs settle) = 3 := rfl

@[simp] theorem opTxCount_byteOps (t : Timing) (v : Byte) (rs : Bool) : opTxCount (byteOps t v rs) = 6 := rfl

@[simp] theorem opEvents_nibOps (s : State) (n : Byte) (rs : Bool) (settle : Nat) :
    opEvents s.devAddr s.bl (nibOps s.timing n rs settle) = nibEvents s n rs settle := rfl

@[simp] theorem opEvents_byteOps (s : State) (v : Byte) (rs : Bool) :
    opEvents s.devAddr s.bl (byteOps s.timing v rs) = byteEvents s v rs := rfl

@[simp] theorem opTxCount_dataOps (t : Timing) (data : List Byte) : opTxCount (dataOps t data) = 6 * data.length := by
  induction data with
  | nil => rfl
  | cons d data ih =>
    rw [show dataOps t (d :: data) = byteOps t d true ++ dataOps t data from rfl]
    simp [ih]; omega

@[simp] theorem opEvents_dataOps (s : State) (data : List Byte) :
    opEvents s.devAddr s.bl (dataOps s.timing data) = dataEvents s data := by
  induction data with
  | nil => rfl
  | cons d data ih =>
    rw [show dataOps s.timing (d :: data) = byteOps s.timing d true ++ dataOps s.timing data from rfl,
      show dataEvents s (d :: data) = byteEvents s d true ++ dataEvents s data from rfl, opEvents_append, ih,
      opEvents_byteOps]

/-! ### A Tx that fails -/

/-- The Tx number `k` (from 0) is answered Err: the events end with it, and the answers after it are left. -/
theorem runOps_fails (ops : List Op) (s : State) (k : Nat) (info : BusErrorInfo) (took : Bool) (rest : List Answer)
    (hk : k < opTxCount ops) (h : s.answers = List.replicate k .ok ++ .err info took :: rest) :
    ∃ t, runOps ops s = .failed info t ∧ WireOnly s t ∧ t.answers = rest ∧
      t.trace = s.trace ++ opEventsUntilErr s.devAddr s.bl info took k ops := by
  induction ops generalizing s k with
  | nil => simp [opTxCount] at hk
  | cons op ops ih =>
    cases op with
    | delay d =>
      have hw : WireOnly s { s with trace := s.trace ++ [.delay d] } := rfl
      obtain ⟨t, h1, h2, h3, h4⟩ := ih { s with trace := s.trace ++ [.delay d] } k (by simpa [opTxCount] using hk) h
      refine ⟨t, by simpa only [runOps, issue] using h1, hw.trans h2, h3, ?_⟩
      rw [h4]
      simp [opEventsUntilErr]
    | tx n rs e =>
      cases k with
      | zero =>
        have ha : s.answers = .err info took :: rest := by simpa using h
        refine ⟨_, by simp only [runOps, issue, transmit_err _ _ _ _ _ ha]; rfl, ?_, ?_, ?_⟩
        · cases took <;> rfl
        · cases took <;> rfl
        · cases took <;> rfl
      | succ k =>
        have ha : s.answers = .ok :: (List.replicate k .ok ++ .err info took :: rest) := by
          simpa [List.replicate_succ] using h
        have hw : WireOnly s (reach (wireByte s.bl n rs e)
            { s with
              answers := List.replicate k .ok ++ .err info took :: rest,
              trace := s.trace ++ [.tx s.devAddr (wireByte s.bl n rs e) .ok] }) := rfl
        obtain ⟨t, h1, h2, h3, h4⟩ := ih (reach (wireByte s.bl n rs e)
          { s with
            answers := List.replicate k .ok ++ .err info took :: rest,
            trace := s.trace ++ [.tx s.devAddr (wireByte s.bl n rs e) .ok] }) k (by simpa [opTxCount] using hk) rfl
        refine ⟨t, ?_, hw.trans h2, h3, ?_⟩
        · simpa only [runOps, issue, transmit_ok _ _ _ ha] using h1
        · rw [h4]
          simp [opEventsUntilErr, reach]

/-! ### The frame of a request -/

/-- A request's micro-ops change no register: only how it ends, the trace, the port, the controller and the
transport's answers (and LIFE, where INIT completes). -/
theorem perform_frame (e : Ending) (ops : List Op) (s : State) :
    perform e ops s =
      { s with
        life := (perform e ops s).life, seq := .idle, result := (perform e ops s).result,
        trace := (perform e ops s).trace, expLatch := (perform e ops s).expLatch,
        lcd := (perform e ops s).lcd, answers := (perform e ops s).answers,
        draws := (perform e ops s).draws } := by
  have h := runOps_wireOnly ops (startSeq e ops s)
  unfold perform
  cases hr : runOps ops (startSeq e ops s) with
  | going t =>
    rw [hr] at h
    simp only [Progress.state, WireOnly] at h
    rw [h]
    simp [finish, endRequest, startSeq]
  | failed info t =>
    rw [hr] at h
    simp only [Progress.state, WireOnly] at h
    rw [h]
    simp [finish, endRequest, startSeq]

/-- The two ways a request ends. -/
theorem perform_cases (e : Ending) (ops : List Op) (s : State) :
    ((perform e ops s).result = some .ok ∧ (perform e ops s).life = lifeEnding e s.life) ∨
    (∃ info, (perform e ops s).result = some (.busError info) ∧ (perform e ops s).life = s.life) := by
  have h := runOps_wireOnly ops (startSeq e ops s)
  unfold perform
  cases hr : runOps ops (startSeq e ops s) with
  | going t =>
    rw [hr] at h
    simp only [Progress.state, WireOnly] at h
    refine .inl ⟨rfl, ?_⟩
    rw [h]
    rfl
  | failed info t =>
    rw [hr] at h
    simp only [Progress.state, WireOnly] at h
    refine .inr ⟨info, rfl, ?_⟩
    rw [h]; rfl

end Sys2Proof.Machine
end

