-- ==== Sys2Proof/Laws/PerInstr.lean ====
section
/-! SUPPORT. The per-instruction family EncodedForm: what the code of a well-formed instruction looks like in its layer. -/

namespace Sys2Proof.Laws.EncodedForm

/-- A request frame has the length R89 gives, an expander byte has RW = 0 (R78), a controller word has RS = 1 exactly
when it is WRITE_DATA (R80), and an initialisation nibble has RS = 0 (R82). -/
def Statement (i : Instr) : Prop :=
  i.wellFormed = true →
    match encode i with
    | .frame bytes => frameLength bytes = some bytes.length
    | .wire b => b.getLsbD 1 = false
    | .word w => w.getLsbD 8 = true ↔ ∃ d, i = .writeData d
    | .nibble v => v.getLsbD 4 = false

theorem init (rows cols : Byte) (addr : HalfWord) (clamp font backlight : Bool) : Statement (.init rows cols addr clamp font backlight) := by
  intro _
  rfl

theorem clear : Statement .clear := by
  intro _
  rfl

theorem home : Statement .home := by
  intro _
  rfl

theorem setCursor (row col : Byte) : Statement (.setCursor row col) := by
  intro _
  rfl

theorem print (data : List Byte) : Statement (.print data) := by
  intro h
  have hl : data.length < 65536 := by simpa [Instr.wellFormed, payloadFits] using h
  simp [encode, lengthField, frameLength, lengthField_toNat data hl]
  omega

theorem showText (sel : BitVec 4) (ell pad : Bool) (text : List Byte) : Statement (.showText sel ell pad text) := by
  intro h
  have hl : text.length < 65536 := by simpa [Instr.wellFormed, payloadFits] using h
  simp [encode, lengthField, frameLength, lengthField_toNat text hl]
  omega

theorem setBacklight (on : Bool) : Statement (.setBacklight on) := by
  intro _
  rfl

theorem cursorOn : Statement .cursorOn := by
  intro _
  rfl

theorem cursorOff : Statement .cursorOff := by
  intro _
  rfl

theorem blinkOn : Statement .blinkOn := by
  intro _
  rfl

theorem blinkOff : Statement .blinkOff := by
  intro _
  rfl

theorem displayOn : Statement .displayOn := by
  intro _
  rfl

theorem displayOff : Statement .displayOff := by
  intro _
  rfl

theorem leftToRight : Statement .leftToRight := by
  intro _
  rfl

theorem rightToLeft : Statement .rightToLeft := by
  intro _
  rfl

theorem autoscroll : Statement .autoscroll := by
  intro _
  rfl

theorem noAutoscroll : Statement .noAutoscroll := by
  intro _
  rfl

theorem uploadGlyph (slot : BitVec 7) (bitmap : List Byte) : Statement (.uploadGlyph slot bitmap) := by
  intro h
  have hl : bitmap.length = 8 ∨ bitmap.length = 11 := by simpa [Instr.wellFormed, bitmapFits] using h
  have h0 : ∀ v : BitVec 7, (BitVec.ofBool false ++ v : Byte).getLsbD 7 = false := by decide
  have h1 : ∀ v : BitVec 7, (BitVec.ofBool true ++ v : Byte).getLsbD 7 = true := by decide
  rcases hl with hl | hl
  · have hb : (bitmap.length == 11) = false := by simp [hl]
    simp only [encode, frameLength, hb, h0]
    simp [hl]
  · have hb : (bitmap.length == 11) = true := by simp [hl]
    simp only [encode, frameLength, hb, h1]
    simp [hl]

theorem writeByte (isData : Bool) (value : Byte) : Statement (.writeByte isData value) := by
  intro _
  rfl

theorem illegalRequest (opcode : Byte) : Statement (.illegalRequest opcode) := by
  intro h
  have hl : 0x13 ≤ opcode.toNat := by simpa [Instr.wellFormed, opcodeIllegal] using h
  simp only [encode, frameLength, List.length_cons, List.length_nil]
  split <;> first | rfl | omega

theorem wireELow (d : Nibble) (bl rs : Bool) : Statement (.wireELow d bl rs) := by
  intro _
  show (wireBits d bl false rs).getLsbD 1 = false
  revert d bl rs; decide

theorem wireEHigh (d : Nibble) (bl rs : Bool) : Statement (.wireEHigh d bl rs) := by
  intro _
  show (wireBits d bl true rs).getLsbD 1 = false
  revert d bl rs; decide

theorem clearDisplay : Statement .clearDisplay := by
  intro _
  simp [encode]

theorem returnHome (x : Bool) : Statement (.returnHome x) := by
  intro _
  cases x <;> simp [encode]

theorem entryModeSet (inc shift : Bool) : Statement (.entryModeSet inc shift) := by
  intro _
  cases inc <;> cases shift <;> simp [encode]

theorem displayControl (d c b : Bool) : Statement (.displayControl d c b) := by
  intro _
  cases d <;> cases c <;> cases b <;> simp [encode]

theorem functionSet (dl n f : Bool) (x : BitVec 2) : Statement (.functionSet dl n f x) := by
  intro _
  have h : ∀ (dl n f : Bool) (x : BitVec 2),
      (0b0001#4 ++ BitVec.ofBool dl ++ BitVec.ofBool n ++ BitVec.ofBool f ++ x : CtrlWord).getLsbD 8 = false := by decide
  simp only [encode, h]
  simp

theorem setCgramAddr (a : BitVec 6) : Statement (.setCgramAddr a) := by
  intro _
  have h : ∀ a : BitVec 6, (0b001#3 ++ a : CtrlWord).getLsbD 8 = false := by decide
  simp only [encode, h]
  simp

theorem setDdramAddr (a : BitVec 7) : Statement (.setDdramAddr a) := by
  intro _
  have h : ∀ a : BitVec 7, (0b01#2 ++ a : CtrlWord).getLsbD 8 = false := by decide
  simp only [encode, h]
  simp

theorem cursorDisplayShift (sc rl : Bool) (x : BitVec 2) : Statement (.cursorDisplayShift sc rl x) := by
  intro _
  have h : ∀ (sc rl : Bool) (x : BitVec 2),
      (0b00001#5 ++ BitVec.ofBool sc ++ BitVec.ofBool rl ++ x : CtrlWord).getLsbD 8 = false := by decide
  simp only [encode, h]
  simp

theorem noCommand00 : Statement .noCommand00 := by
  intro _
  simp [encode]

theorem writeData (d : Byte) : Statement (.writeData d) := by
  intro _
  have h : ∀ d : Byte, (0b1#1 ++ d : CtrlWord).getLsbD 8 = true := by decide
  simp only [encode, h]
  simp

theorem initNibble8bit : Statement .initNibble8bit := by
  intro _
  rfl

theorem initNibble4bit : Statement .initNibble4bit := by
  intro _
  rfl

end Sys2Proof.Laws.EncodedForm
end

