-- ==== Sys2Proof/Machine/Assembler.lean ====
section
/-! DEFINITION. The assembler's lines after parsing (30_encoding.md R87) and its pseudo-instructions (R88). The block does
not see them: a line stands for the requests it assembles to. -/

namespace Sys2Proof

/-- One line of R87 or R88; the numbers are as written, before the assembler narrows them. -/
inductive AsmLine where
  /-- Any request whose operands are written as they are encoded. -/
  | request (i : Instr)
  /-- `INIT rows, columns, address [, CLAMP] [, FONT5X10] [, BLOFF]`; the last three are the keywords' presence. -/
  | initLine (rows cols : Byte) (addr : HalfWord) (clampWord fontWord blOffWord : Bool)
  /-- `SHOW_TEXT "text", {rows} [, ELLIPSIS] [, PAD]`. -/
  | showTextLine (text : List Byte) (rows : List (Fin 4)) (ellipsisWord padWord : Bool)
  /-- `UPLOAD_GLYPH slot, [b0, …]`. -/
  | uploadGlyphLine (slot : Nat) (bitmap : List Byte)
  /-- `BACKLIGHT_ON`. -/
  | backlightOn
  /-- `BACKLIGHT_OFF`. -/
  | backlightOff
  /-- `PRINT_AT row, col, "text"`. -/
  | printAt (row col : Byte) (text : List Byte)
  deriving DecidableEq, Repr

/-- A row selection as its bit set: bit r selects row r (R73). -/
def rowSet : List (Fin 4) → BitVec 4
  | [] => 0
  | r :: rs => (1#4 <<< r.val) ||| rowSet rs

/-- The requests a line assembles to (R87, R88). -/
def assemble : AsmLine → List Instr
  | .request i => [i]
  | .initLine rows cols addr clampWord fontWord blOffWord => [.init rows cols addr clampWord fontWord (!blOffWord)]
  | .showTextLine text rows ellipsisWord padWord => [.showText (rowSet rows) ellipsisWord padWord text]
  | .uploadGlyphLine slot bitmap => [.uploadGlyph (BitVec.ofNat 7 slot) bitmap]
  | .backlightOn => [.setBacklight true]
  | .backlightOff => [.setBacklight false]
  | .printAt row col text => [.setCursor row col, .print text]

end Sys2Proof
end

