-- ==== Sys2Proof/Tests/Slice0.lean ====
section
/-! SUPPORT. The model's own tests. Expected values come from 95_test_vectors.md (V and P numbers) or from the encodings of
30_encoding.md written out bit by bit. Each `wit_` theorem shows a state and operands that meet the hypotheses of the
obligation it is named after. -/

namespace Sys2Proof.Tests

open Sys2Proof Sys2Proof.Machine

/-! ### Helpers -/

/-- The state an answer holds, `d` where it holds none. -/
def stateOf (d : State) : StepOutcome → State
  | .next t => t
  | .fault _ => d
  | .refused _ => d

/-- Whether the answer is a next state. -/
def isNext : StepOutcome → Bool
  | .next _ => true
  | .fault _ => false
  | .refused _ => false

theorem next_of_isNext {d : State} {o : StepOutcome} (h : isNext o = true) : o = .next (stateOf d o) := by
  cases o with
  | next t => rfl
  | fault f => cases f
  | refused r => cases h

/-- The state after an instruction. -/
def after (i : Instr) (s : State) : State := stateOf s (exec i s)

/-- The state after a step. -/
def stepped (s : State) : State := stateOf s (step s)

/-- The start state of 95_test_vectors.md: as an OK `INIT 2, 16, 0x27` leaves it, `k` transactions answered Ok. -/
def ready (k : Nat) : State :=
  { State.reset with
    life := .ready, geomRows := 2, geomCols := 16, devAddr := 0x0027, entry := 0x02, dispctl := 0x04, funcset := 0x08,
    bl := true, expLatch := 0x28, answers := List.replicate k .ok,
    lcd :=
      { obs := { Observer.powerOn with mode := .four, phase := .high, prevE := false, region := .ddram },
        panel := { Panel.powerOn with display := true, lines := true, configured := true, framed := true } } }

/-- The same after a raw FUNCTION_SET with DL = 1 and a HOME: 4-bit mode again by R112, but out of step by R146. -/
def misframed (k : Nat) : State :=
  { ready k with lcd := { (ready k).lcd with panel := { (ready k).lcd.panel with framed := false } } }

/-- The same with the interface in 8-bit mode. -/
def eightBit (k : Nat) : State :=
  { ready k with lcd := { (ready k).lcd with obs := { (ready k).lcd.obs with mode := .eight } } }

/-- The same on 20 columns and 4 rows. -/
def ready4 (k : Nat) : State := { ready k with geomRows := 4, geomCols := 20 }

/-- The same with every answer before the last Ok, and the last Err with error value 7. -/
def failing (k : Nat) (took : Bool) : State := { ready 0 with answers := List.replicate k .ok ++ [.err 7 took] }

/-- A transaction to 0x27 answered Ok. -/
def tx (b : Byte) : Event := .tx 0x0027 b .ok

/-- `b e D200 b Dn`, one nibble of a trace. -/
def pulse (b e : Byte) (n : Nat) : List Event := [tx b, tx e, .delay 200, tx b, .delay n]

/-! ### Well-formedness refuses an ill-formed term for each of its checks -/

theorem payloadFits_replicate (n : Nat) : payloadFits (List.replicate n 0) = decide (n < 65536) := by
  rw [payloadFits, List.length_replicate]

theorem test_print_of_65535_is_well_formed : (Instr.print (List.replicate 65535 0)).wellFormed = true :=
  (payloadFits_replicate _).trans (by decide)
theorem test_print_of_65536_is_ill_formed : (Instr.print (List.replicate 65536 0)).wellFormed = false :=
  (payloadFits_replicate _).trans (by decide)
theorem test_text_of_65536_is_ill_formed :
    (Instr.showText 1 false false (List.replicate 65536 0)).wellFormed = false :=
  (payloadFits_replicate _).trans (by decide)
theorem test_bitmap_of_9_is_ill_formed : (Instr.uploadGlyph 0 (List.replicate 9 0)).wellFormed = false := by decide
theorem test_bitmap_of_11_is_well_formed : (Instr.uploadGlyph 0 (List.replicate 11 0)).wellFormed = true := by decide
theorem test_opcode_12_is_no_illegal_request : (Instr.illegalRequest 0x12).wellFormed = false := by decide
theorem test_opcode_13_is_an_illegal_request : (Instr.illegalRequest 0x13).wellFormed = true := by decide

/-! ### Decoding: one code per constructor, written out from 30_encoding.md -/

-- V1.2, V1.12: opts 0b11111100 and 0b00000100 are the same INIT
theorem test_decode_init :
    decode (.frame [0x00, 0x02, 0x10, 0x27, 0x00, 0b11111100]) = .ok (.init 2 16 0x0027 false false true) := by decide
-- V5.5, R71: the address is low byte first
theorem test_decode_init_address :
    decode (.frame [0x00, 0x04, 0x14, 0x34, 0x12, 0b00000011]) = .ok (.init 4 20 0x1234 true true false) := by decide
theorem test_decode_clear : decode (.frame [0x01]) = .ok .clear := by decide
theorem test_decode_home : decode (.frame [0x02]) = .ok .home := by decide
-- P1
theorem test_decode_setCursor : decode (.frame [0x03, 0x01, 0x03]) = .ok (.setCursor 1 3) := by decide
-- V1.4
theorem test_decode_print : decode (.frame [0x04, 0x02, 0x00, 0x48, 0x69]) = .ok (.print [0x48, 0x69]) := by decide
-- V10.4, V10.10: SS = 0x23 pads, SS = 0x13 marks
theorem test_decode_showText :
    decode (.frame [0x05, 0x23, 0x02, 0x00, 0x48, 0x69]) = .ok (.showText 0b0011 false true [0x48, 0x69]) := by decide
theorem test_decode_showText_mark :
    decode (.frame [0x05, 0xD6, 0x01, 0x00, 0x48]) = .ok (.showText 0b0110 true false [0x48]) := by decide
-- V1.10
theorem test_decode_setBacklight : decode (.frame [0x06, 0xFE]) = .ok (.setBacklight false) := by decide
theorem test_decode_cursorOn : decode (.frame [0x07]) = .ok .cursorOn := by decide
theorem test_decode_cursorOff : decode (.frame [0x08]) = .ok .cursorOff := by decide
theorem test_decode_blinkOn : decode (.frame [0x09]) = .ok .blinkOn := by decide
theorem test_decode_blinkOff : decode (.frame [0x0A]) = .ok .blinkOff := by decide
theorem test_decode_displayOn : decode (.frame [0x0B]) = .ok .displayOn := by decide
theorem test_decode_displayOff : decode (.frame [0x0C]) = .ok .displayOff := by decide
theorem test_decode_leftToRight : decode (.frame [0x0D]) = .ok .leftToRight := by decide
theorem test_decode_rightToLeft : decode (.frame [0x0E]) = .ok .rightToLeft := by decide
theorem test_decode_autoscroll : decode (.frame [0x0F]) = .ok .autoscroll := by decide
theorem test_decode_noAutoscroll : decode (.frame [0x10]) = .ok .noAutoscroll := by decide
-- P5, V1.6: GG bit 7 gives the length, bits 6:0 the slot
theorem test_decode_uploadGlyph :
    decode (.frame [0x11, 0x02, 0x04, 0x0E, 0x15, 0x04, 0x04, 0x04, 0x04, 0x00]) =
      .ok (.uploadGlyph 2 [0x04, 0x0E, 0x15, 0x04, 0x04, 0x04, 0x04, 0x00]) := by decide
theorem test_decode_uploadGlyph_11 :
    decode (.frame [0x11, 0b10001001, 1, 2, 3, 4, 5, 6, 7, 8, 9, 10, 11]) =
      .ok (.uploadGlyph 0b0001001 [1, 2, 3, 4, 5, 6, 7, 8, 9, 10, 11]) := by decide
-- V1.11
theorem test_decode_writeByte : decode (.frame [0x12, 0xFF, 0x41]) = .ok (.writeByte true 0x41) := by decide
-- V1.8, V1.9
theorem test_decode_illegalRequest : decode (.frame [0x13]) = .ok (.illegalRequest 0x13) := by decide
theorem test_decode_illegalRequest_ff : decode (.frame [0xFF]) = .ok (.illegalRequest 0xFF) := by decide
-- V2.1, V2.4: D7..D4, BL, E, RW, RS
theorem test_decode_wireELow : decode (.wire 0b00111000) = .ok (.wireELow 0x3 true false) := by decide
theorem test_decode_wireEHigh : decode (.wire 0b11111101) = .ok (.wireEHigh 0xF true true) := by decide
theorem test_decode_clearDisplay : decode (.word 0b000000001) = .ok .clearDisplay := by decide
theorem test_decode_returnHome : decode (.word 0b000000010) = .ok (.returnHome false) := by decide
theorem test_decode_entryModeSet : decode (.word 0b000000110) = .ok (.entryModeSet true false) := by decide
theorem test_decode_displayControl : decode (.word 0b000001110) = .ok (.displayControl true true false) := by decide
theorem test_decode_functionSet : decode (.word 0b000101000) = .ok (.functionSet false true false 0) := by decide
theorem test_decode_setCgramAddr : decode (.word 0b001001000) = .ok (.setCgramAddr 0x08) := by decide
theorem test_decode_setDdramAddr : decode (.word 0b011010100) = .ok (.setDdramAddr 0x54) := by decide
theorem test_decode_cursorDisplayShift :
    decode (.word 0b000011001) = .ok (.cursorDisplayShift true false 0b01) := by decide
theorem test_decode_noCommand00 : decode (.word 0b000000000) = .ok .noCommand00 := by decide
theorem test_decode_writeData : decode (.word 0b110101011) = .ok (.writeData 0xAB) := by decide
theorem test_decode_initNibble8bit : decode (.nibble 0b00011) = .ok .initNibble8bit := by decide
theorem test_decode_initNibble4bit : decode (.nibble 0b00010) = .ok .initNibble4bit := by decide
-- V1.1, R78, R82: what is no instruction is refused by name
theorem test_decode_incomplete : decode (.frame [0x00, 0x02, 0x10, 0x27, 0x00]) = .error .incomplete := by decide
theorem test_decode_readWriteSet : decode (.wire 0x3A) = .error .readWriteSet := by decide
theorem test_decode_otherNibble : decode (.nibble 0b10011) = .error .otherNibble := by decide
theorem test_decode_trailing : decode (.frame [0x01, 0x01]) = .error .trailing := by decide

/-! ### One request each, from the start state of 95_test_vectors.md -/

-- V5.1: the trace from power-on, and the registers
theorem test_init_trace :
    (after (.init 2 16 0x0027 false false true) { State.reset with answers := List.replicate 42 .ok }).trace =
      [.delay 50000] ++ pulse 0x38 0x3C 4100 ++ pulse 0x38 0x3C 150 ++ pulse 0x38 0x3C 150 ++ pulse 0x28 0x2C 150
        ++ pulse 0x28 0x2C 50 ++ pulse 0x88 0x8C 50 ++ pulse 0x08 0x0C 50 ++ pulse 0xC8 0xCC 50
        ++ pulse 0x08 0x0C 50 ++ pulse 0x68 0x6C 50 ++ pulse 0x08 0x0C 50 ++ pulse 0x18 0x1C 50 ++ [.delay 1520]
        ++ pulse 0x08 0x0C 50 ++ pulse 0x28 0x2C 50 ++ [.delay 1520] := by decide +kernel
-- V5.13: the first Tx fails
theorem test_init_fails :
    let t := after (.init 2 16 0x0027 false false true) { State.reset with answers := [.err 7 true] }
    t.trace = [.delay 50000, .tx 0x0027 0x38 (.err 7 true)] ∧ t.result = some (.busError 7) ∧ t.expLatch = 0x38 ∧
      t.life = .uninitialized ∧ t.geomCols = 16 ∧ t.funcset = 0x08 := by decide +kernel
-- V6.1, V6.3
theorem test_clear_trace :
    (after .clear (ready 6)).trace = pulse 0x08 0x0C 50 ++ pulse 0x18 0x1C 50 ++ [.delay 1520] := by decide +kernel
theorem test_clear_fails :
    let t := after .clear (failing 5 false)
    t.trace = pulse 0x08 0x0C 50 ++ [tx 0x18, tx 0x1C, .delay 200, .tx 0x0027 0x18 (.err 7 false)] ∧
      t.result = some (.busError 7) ∧ t.expLatch = 0x1C := by decide +kernel
-- V6.2
theorem test_home_trace :
    (after .home (ready 6)).trace = pulse 0x08 0x0C 50 ++ pulse 0x28 0x2C 50 ++ [.delay 1520] := by decide +kernel
-- V4.6, V4.13
theorem test_setCursor_trace :
    (after (.setCursor 3 19) (ready4 6)).trace = pulse 0xE8 0xEC 50 ++ pulse 0x78 0x7C 50 := by decide +kernel
theorem test_setCursor_column_first :
    (after (.setCursor 5 16) { ready 6 with optClamp := true }).result = some (.invalidPosition 5 16 2 16) := by decide
-- V10.1, V10.3
theorem test_print_trace :
    (after (.print [0x48, 0x69]) (ready 12)).trace =
      pulse 0x49 0x4D 50 ++ pulse 0x89 0x8D 50 ++ pulse 0x69 0x6D 50 ++ pulse 0x99 0x9D 50 := by decide +kernel
theorem test_print_fails :
    (after (.print [0x48, 0x69]) (failing 6 false)).trace =
      pulse 0x49 0x4D 50 ++ pulse 0x89 0x8D 50 ++ [.tx 0x0027 0x69 (.err 7 false)] := by decide +kernel
-- V10.4: 0:80, "Hi" and 14 spaces, 0:C0, 16 spaces
theorem test_showText_words :
    (after (.showText 0b0011 false true [0x48, 0x69]) (ready 204)).lcd.obs.words =
      [.full 0x080 false, .full 0x148 false, .full 0x169 false] ++ List.replicate 14 (.full 0x120 false)
        ++ [.full 0x0C0 false] ++ List.replicate 16 (.full 0x120 false) := by decide +kernel
-- V10.8: the range check comes before the empty text
theorem test_showText_range :
    after (.showText 0b0100 false false []) (ready 6) = answered (ready 6) (.invalidPosition 2 0 2 16) := by decide
-- V8.1, V8.6
theorem test_setBacklight_trace : (after (.setBacklight false) (ready 1)).trace = [tx 0x00] := by decide
theorem test_setBacklight_fails :
    let t := after (.setBacklight false) (failing 0 true)
    t.trace = [.tx 0x0027 0x00 (.err 7 true)] ∧ t.bl = false ∧ t.expLatch = 0x00 := by decide
-- V7.1, V7.16
theorem test_cursorOn :
    let t := after .cursorOn (ready 6)
    t.dispctl = 0x06 ∧ t.trace = pulse 0x08 0x0C 50 ++ pulse 0xE8 0xEC 50 := by decide +kernel
theorem test_cursorOn_dark :
    (after .cursorOn { ready 6 with bl := false }).trace = pulse 0x00 0x04 50 ++ pulse 0xE0 0xE4 50 := by decide +kernel
-- V7.3
theorem test_cursorOff :
    let t := after .cursorOff { ready 6 with dispctl := 0x06 }
    t.dispctl = 0x04 ∧ t.trace = pulse 0x08 0x0C 50 ++ pulse 0xC8 0xCC 50 := by decide +kernel
-- V7.5
theorem test_blinkOn :
    let t := after .blinkOn (ready 6)
    t.dispctl = 0x05 ∧ t.trace = pulse 0x08 0x0C 50 ++ pulse 0xD8 0xDC 50 := by decide +kernel
-- V7.6
theorem test_blinkOff :
    let t := after .blinkOff { ready 6 with dispctl := 0x05 }
    t.dispctl = 0x04 ∧ t.trace = pulse 0x08 0x0C 50 ++ pulse 0xC8 0xCC 50 := by decide +kernel
-- V7.8
theorem test_displayOn :
    let t := after .displayOn { ready 6 with dispctl := 0x00 }
    t.dispctl = 0x04 ∧ t.trace = pulse 0x08 0x0C 50 ++ pulse 0xC8 0xCC 50 := by decide +kernel
-- V7.10
theorem test_displayOff :
    let t := after .displayOff { ready 6 with dispctl := 0x07 }
    t.dispctl = 0x03 ∧ t.trace = pulse 0x08 0x0C 50 ++ pulse 0xB8 0xBC 50 := by decide +kernel
-- V7.12
theorem test_leftToRight :
    let t := after .leftToRight { ready 6 with entry := 0x00 }
    t.entry = 0x02 ∧ t.trace = pulse 0x08 0x0C 50 ++ pulse 0x68 0x6C 50 := by decide +kernel
-- V7.15
theorem test_rightToLeft :
    let t := after .rightToLeft { ready 6 with entry := 0x03 }
    t.entry = 0x01 ∧ t.trace = pulse 0x08 0x0C 50 ++ pulse 0x58 0x5C 50 := by decide +kernel
-- V7.13
theorem test_autoscroll :
    let t := after .autoscroll (ready 6)
    t.entry = 0x03 ∧ t.trace = pulse 0x08 0x0C 50 ++ pulse 0x78 0x7C 50 := by decide +kernel
-- V7.14
theorem test_noAutoscroll :
    let t := after .noAutoscroll { ready 6 with entry := 0x03 }
    t.entry = 0x02 ∧ t.trace = pulse 0x08 0x0C 50 ++ pulse 0x68 0x6C 50 := by decide +kernel
-- V11.2, V11.7: slots 9 and 0x7F are slots 1 and 7
theorem test_uploadGlyph_slot_9 :
    let t := after (.uploadGlyph 0x09 (List.replicate 8 0x15)) (ready 54)
    t.trace.take 10 = pulse 0x48 0x4C 50 ++ pulse 0x88 0x8C 50 ∧
      t.lcd.panel.cgram = [(8, 0x15), (9, 0x15), (10, 0x15), (11, 0x15), (12, 0x15), (13, 0x15), (14, 0x15), (15, 0x15)] := by
  decide +kernel
theorem test_uploadGlyph_slot_7f :
    (after (.uploadGlyph 0x7F (List.replicate 8 0xFF)) (ready 54)).trace.take 10 =
      pulse 0x78 0x7C 50 ++ pulse 0x88 0x8C 50 := by decide +kernel
-- V11.5, U17: rows 0 to 2 of slot 2 hold any value, and row 3 is kept
theorem test_uploadGlyph_11 :
    let s := { ready 72 with lcd := { (ready 0).lcd with panel := { (ready 0).lcd.panel with
      cgram := [(0x10, 0x55), (0x13, 0x66)] } } }
    let t := after (.uploadGlyph 0x01 [1, 2, 3, 4, 5, 6, 7, 8, 9, 10, 11]) s
    t.lcd.panel.cgram = [(8, 1), (9, 2), (10, 3), (11, 4), (12, 5), (13, 6), (14, 7), (15, 8), (0x13, 0x66)] ∧
      t.lcd.panel.ac = 0x13 := by decide +kernel
-- P5, U7: after an upload the printed byte leaves any value in CGRAM; a cursor command moves the pointer out of it
theorem test_print_after_upload :
    let s := after (.uploadGlyph 0x02 [0x04, 0x0E, 0x15, 0x04, 0x04, 0x04, 0x04, 0x00]) (ready 60)
    let t := after (.print [0x41]) s
    s.lcd.panel.uploaded = true ∧ t.lcd.obs.region = .cgram ∧ t.lcd.panel.ac = 0x19 ∧ t.lcd.panel.cgram = [] ∧
      t.lcd.panel.ddram = s.lcd.panel.ddram ∧ (after (.setCursor 0 0) s).lcd.panel.uploaded = false := by decide +kernel
-- V8.2, V8.7
theorem test_writeByte_dark :
    (after (.writeByte true 0xAB) { ready 6 with bl := false }).trace = pulse 0xA1 0xA5 50 ++ pulse 0xB1 0xB5 50 := by
  decide +kernel
theorem test_writeByte_command :
    let t := after (.writeByte false 0x0F) (ready 6)
    t.lcd.obs.words = [.full 0x00F false] ∧ t.dispctl = 0x04 := by decide +kernel
-- V12.2
theorem test_illegalRequest_before_init :
    after (.illegalRequest 0x13) State.reset = answered State.reset (.illegalRequest 0x13) := by decide

-- R86, U13: nothing is known of DDRAM after a raw 0:33
theorem test_writeByte_33 :
    let s := { ready 6 with lcd := { (ready 0).lcd with panel := { (ready 0).lcd.panel with ddram := [(0, 0x41)] } } }
    (after (.writeByte false 0x33) s).lcd.panel.ddram = [] ∧ (after (.writeByte false 0x33) s).lcd.obs.mode = .eight := by
  decide +kernel
-- R240, R21: the numeric codes
theorem test_codes :
    [Result.ok, .busError 7, .invalidPosition 0 0 0 0, .uninitialized, .invalidGeometry 0 0, .illegalRequest 0x13].map
      resultCode = [0, 1, 2, 3, 4, 5] ∧ lifeCode .uninitialized = 0 ∧ lifeCode .ready = 1 := by decide

/-! ### Layout (V9) -/

/-- "ABCDEFGHIJ". -/
def letters : List Byte := [0x41, 0x42, 0x43, 0x44, 0x45, 0x46, 0x47, 0x48, 0x49, 0x4A]

-- V9.14
theorem test_layout_overflow :
    layout letters 0b0110 true false 4 = [[0x41, 0x42, 0x43, 0x44], [0x45, 0x46, 0x47, 0x7E]] := by decide
-- V9.12: the gap row is filled
theorem test_layout_gap :
    layout [0x41, 0x42, 0x43] 0b0101 false true 4 =
      [[0x41, 0x42, 0x43, 0x20], [0x20, 0x20, 0x20, 0x20], [0x20, 0x20, 0x20, 0x20]] := by decide
-- V9.11
theorem test_layout_one_column : layout [0x41, 0x42, 0x43] 0b0001 true false 1 = [[0x7E]] := by decide

/-! ### Downstream instructions -/

-- V13, j = 3: the falling E latches a nibble
theorem test_wireELow_latches :
    let t := after (.wireELow 0x0 true false)
      { ready 0 with expLatch := 0x0C, lcd := { (ready 0).lcd with obs := { (ready 0).lcd.obs with prevE := true } } }
    t.expLatch = 0x08 ∧ t.lcd.obs.phase = .low ∧ t.lcd.obs.hiNib = 0x0 ∧ t.lcd.obs.prevE = false := by decide
-- V8.1: a byte without an enable pulse delivers nothing
theorem test_wireELow_without_pulse : after (.wireELow 0x0 false false) (ready 0) = { ready 0 with expLatch := 0x00 } := by
  decide
-- V13, j = 2
theorem test_wireEHigh :
    let t := after (.wireEHigh 0x0 true false) (ready 0)
    t.expLatch = 0x0C ∧ t.lcd.obs.prevE = true ∧ t.lcd.obs.words = [] := by decide
-- P6: the address counter and I/D after a Clear
theorem test_clearDisplay :
    let t := after .clearDisplay
      { ready 0 with lcd := { (ready 0).lcd with panel := { (ready 0).lcd.panel with ac := 0x25, inc := false } } }
    t.lcd.panel.ac = 0 ∧ t.lcd.panel.inc = true ∧ Memory.read t.lcd.panel.ddram 127 = some 0x20 := by decide +kernel
theorem test_returnHome :
    let t := after (.returnHome false)
      { ready 0 with lcd := { (ready 0).lcd with panel := { (ready 0).lcd.panel with ac := 0x25, shift := 3 } } }
    t.lcd.panel.ac = 0 ∧ t.lcd.panel.shift = 0 ∧ t.lcd.obs.region = .ddram := by decide
theorem test_entryModeSet :
    let t := after (.entryModeSet false true) (ready 0)
    t.lcd.panel.inc = false ∧ t.lcd.panel.shiftOn = true ∧ t.lcd.obs.words = [.full 0x005 false] := by decide
theorem test_displayControl :
    let t := after (.displayControl false true true) (ready 0)
    t.lcd.panel.display = false ∧ t.lcd.panel.cursor = true ∧ t.lcd.panel.blink = true ∧
      t.lcd.obs.words = [.full 0x00B false] := by decide
-- V8.8: DL = 1 is 8-bit mode
theorem test_functionSet_8bit :
    let t := after (.functionSet true false false 0) (ready 0)
    t.lcd.obs.mode = .eight ∧ t.lcd.obs.words = [.full 0x030 false] := by decide
-- V11.1
theorem test_setCgramAddr :
    let t := after (.setCgramAddr 0x08) (ready 0)
    t.lcd.panel.ac = 0x08 ∧ t.lcd.obs.region = .cgram ∧ t.lcd.obs.words = [.full 0x048 false] := by decide
-- V4.6
theorem test_setDdramAddr :
    let t := after (.setDdramAddr 0x67) (ready 0)
    t.lcd.panel.ac = 0x67 ∧ t.lcd.obs.region = .ddram ∧ t.lcd.obs.words = [.full 0x0E7 false] := by decide
theorem test_cursorDisplayShift :
    (after (.cursorDisplayShift true false 1) (ready 0)).lcd.obs.words = [.full 0x019 false] := by decide
-- V13, j = 2: 0:00 is recorded and the framing stays
theorem test_noCommand00 :
    let t := after .noCommand00 (ready 0)
    t.lcd.obs.words = [.full 0x000 false] ∧ t.lcd.obs.mode = .four ∧ t.lcd.obs.phase = .high := by decide
-- P1: 'H' at 0x43, the counter moves on
theorem test_writeData :
    let t := after (.writeData 0x48)
      { ready 0 with lcd := { (ready 0).lcd with panel := { (ready 0).lcd.panel with ac := 0x43 } } }
    t.lcd.panel.ddram = [(0x43, 0x48)] ∧ t.lcd.panel.ac = 0x44 := by decide
-- V14
theorem test_initNibble8bit :
    let t := after .initNibble8bit State.reset
    t.lcd.obs.words = [.eightBit false 0x3] ∧ t.lcd.obs.mode = .eight := by decide
theorem test_initNibble4bit :
    let t := after .initNibble4bit State.reset
    t.lcd.obs.words = [.eightBit false 0x2] ∧ t.lcd.obs.mode = .four ∧ t.lcd.obs.phase = .high := by decide

-- V8.8, R146: after a raw FUNCTION_SET with DL = 1, HOME's nibble 0x2 sets 4-bit mode (R112), and later bytes are misframed
theorem test_writeByte_30 :
    let t := after (.writeByte false 0x30) (ready 6)
    t.lcd.obs.mode = .eight ∧ t.lcd.panel.framed = false := by decide +kernel
theorem test_home_in_8bit :
    let s := { misframed 6 with lcd := { (misframed 6).lcd with obs := (eightBit 6).lcd.obs } }
    let t := after .home s
    t.lcd.obs.words = [.eightBit false 0x0, .eightBit false 0x2] ∧ t.lcd.panel.framed = false := by decide +kernel
theorem test_clear_misframed : (after .clear (misframed 6)).lcd.panel.ddram = [] := by decide +kernel

/-! ### Fetching -/

-- V1.1: an incomplete frame waits
theorem test_step_waits :
    stepped { ready 6 with rx := [0x00, 0x02, 0x10, 0x27, 0x00] } = { ready 6 with rx := [0x00, 0x02, 0x10, 0x27, 0x00] } := by
  decide
-- V12.1: the first instruction after reset
theorem test_step_from_reset :
    (stepped (State.reset.withFetchWord 8 0x01)).result = some .uninitialized := by decide
theorem test_step_takes_the_frame :
    (stepped { ready 6 with rx := [0x01, 0x02] }).rx = [0x02] := by decide +kernel
theorem test_table_word_of_a_controller_word : decodeTableWord 16 0x0C3 = some (.setDdramAddr 0x43) := by decide
theorem test_powerCycle : (powerCycle (ready 3)).life = .uninitialized ∧ (powerCycle (ready 3)).lcd = State.reset.lcd := by
  decide
-- The counter of free values goes on through a power loss.
theorem test_powerCycle_draws : (powerCycle (after .noCommand00 (ready 0))).lcd.panel.draws = 1 := by decide
theorem test_assemble :
    assemble (.showTextLine [0x48] [0, 1] false true) = [.showText 0b0011 false true [0x48]] ∧
      assemble (.printAt 1 3 [0x48]) = [.setCursor 1 3, .print [0x48]] := by decide

/-! ### Witnesses of the obligations' hypotheses -/

theorem wit_DecodeOfEncodeIsIdentity :
    (Instr.print (List.replicate 65535 0)).wellFormed = true ∧ (Instr.uploadGlyph 0x7F (List.replicate 11 0)).wellFormed = true ∧
      (Instr.illegalRequest 0x13).wellFormed = true :=
  ⟨test_print_of_65535_is_well_formed, by decide, by decide⟩

theorem wit_DecodedFrameIsWellFormed :
    decodeFrame [0x04, 0x01, 0x00, 0x48, 0x07] = .ok (.print [0x48], [0x07]) ∧
      decodeFrame [0x13] = .ok (.illegalRequest 0x13, []) := by decide

theorem wit_FrameLeavesFollowingBytes :
    (Instr.print [0x48]).wellFormed = true ∧ encode (.print [0x48]) = .frame [0x04, 0x01, 0x00, 0x48] := by decide

theorem wit_IncompleteFrameWaits :
    let s := { ready 6 with rx := [0x03, 0x01] }
    (Instr.setCursor 1 3).wellFormed = true ∧ encode (.setCursor 1 3) = .frame [0x03, 0x01, 0x03] ∧ s.seq = .idle ∧
      s.arrivals = [] ∧ s.rx <+: [0x03, 0x01, 0x03] ∧ s.rx ≠ [0x03, 0x01, 0x03] := by decide

theorem wit_ReservedBitsAreIgnored :
    (0xFC : Byte) &&& 0x07 = 0x04 &&& 0x07 ∧ (0xC3 : Byte) &&& 0x3F = 0x03 &&& 0x3F ∧
      (0xFE : Byte) &&& 0x01 = 0x00 &&& 0x01 ∧ (0x09 : BitVec 7) &&& 0x07 = 0x01 &&& 0x07 := by decide

theorem wit_StepRunsDecodedInstruction_frame :
    let s := { ready 6 with rx := [0x01, 0x02] }
    s.seq = .idle ∧ s.arrivals = [] ∧ decodeFrame s.rx = .ok (.clear, [0x02]) := by decide
theorem wit_StepRunsDecodedInstruction_wire :
    let s := { ready 6 with arrivals := [.wire 0x3C] }
    s.seq = .idle ∧ s.arrivals = .wire 0x3C :: [] ∧ decodeWire 0x3C = .ok (.wireEHigh 0x3 true false) := by decide
theorem wit_StepRunsDecodedInstruction_word :
    let s := { ready 6 with arrivals := [.word 0x001] }
    s.seq = .idle ∧ s.arrivals = .word 0x001 :: [] := by decide
theorem wit_StepRunsDecodedInstruction_nibble :
    let s := { ready 6 with arrivals := [.nibble 0x03] }
    s.seq = .idle ∧ s.arrivals = .nibble 0x03 :: [] ∧ decodeNibble 0x03 = .ok .initNibble8bit := by decide
theorem wit_StepRunsDecodedInstruction_busy :
    (startSeq .init [.delay 5] (ready 0)).seq = .busy [.delay 5] 0 .init := by decide

theorem wit_OnlyReadWriteByteStops_moves :
    ∀ b rest, ({ ready 0 with arrivals := [.wire 0x3C] } : State).arrivals = .wire b :: rest → b.getLsbD 1 = false := by
  intro b rest h
  cases h
  decide
theorem wit_OnlyReadWriteByteStops_stops :
    let s := { ready 0 with arrivals := [.wire 0x02] }
    s.seq = .idle ∧ s.arrivals = .wire 0x02 :: [] ∧ (0x02 : Byte).getLsbD 1 = true := by decide

theorem ready_lawful : Lawful (ready 6) where
  geometry := fun _ => by decide
  entry := by decide
  dispctl := by decide
  funcset := by decide
  strobe := by decide
  phase := fun h => by cases h
  memory := ⟨by decide, by decide, by decide, by decide⟩
  resync := fun h => by cases h
  readWrite := fun _ _ _ h => by cases h

theorem misframed_lawful : Lawful (misframed 6) where
  geometry := fun _ => by decide
  entry := by decide
  dispctl := by decide
  funcset := by decide
  strobe := by decide
  phase := fun h => by cases h
  memory := ⟨by decide, by decide, by decide, by decide⟩
  resync := fun h => by cases h
  readWrite := fun _ _ _ h => by cases h

theorem wit_EveryStepKeepsInvariant : Lawful (ready 6) ∧ step (ready 6) = .next (stepped (ready 6)) :=
  ⟨ready_lawful, next_of_isNext (by decide)⟩

theorem wit_RequestsBeforeInitAreUninitialized :
    isRequest (.setCursor 9 9) = true ∧ isInit (.setCursor 9 9) = false ∧ isIllegal (.setCursor 9 9) = false ∧
      State.reset.seq = .idle ∧ State.reset.life = .uninitialized := by decide

theorem wit_IllegalOpcodeAnsweredAtOnce :
    let s := { State.reset with rx := [0x13, 0x01] }
    s.seq = .idle ∧ s.arrivals = [] ∧ s.rx = 0x13 :: [0x01] ∧ 0x13 ≤ (0x13 : Byte).toNat := by decide

theorem wit_IllegalGeometryChangesNothing :
    (ready 0).seq = .idle ∧
      ¬ (((3 : Byte) = 1 ∨ (3 : Byte) = 2 ∨ (3 : Byte) = 4) ∧ 1 ≤ (16 : Byte).toNat ∧ (16 : Byte).toNat ≤ 20) ∧
      ¬ (((2 : Byte) = 1 ∨ (2 : Byte) = 2 ∨ (2 : Byte) = 4) ∧ 1 ≤ (0 : Byte).toNat ∧ (0 : Byte).toNat ≤ 20) ∧
      ¬ (((2 : Byte) = 1 ∨ (2 : Byte) = 2 ∨ (2 : Byte) = 4) ∧ 1 ≤ (21 : Byte).toNat ∧ (21 : Byte).toNat ≤ 20) := by decide

theorem wit_BusySequencerAcceptsNoRequest :
    isRequest .clear = true ∧ (startSeq .plain [.delay 5] (ready 0)).seq = .busy [.delay 5] 0 .plain := by decide

theorem wit_SetCursorOutsideGeometry_column : Accepts (ready 0) ∧ (ready 0).geomCols.toNat ≤ (16 : Byte).toNat := by decide
theorem wit_SetCursorOutsideGeometry_row :
    Accepts (ready 0) ∧ (ready 0).geomRows.toNat ≤ (2 : Byte).toNat ∧ (ready 0).optClamp = false := by decide

theorem no_bit_from_4 {sel : BitVec 4} {n : Nat} (h : ∀ j, j < 4 → n ≤ j → sel.getLsbD j = false) (j : Nat) (hj : n ≤ j) :
    sel.getLsbD j = false := by
  by_cases h4 : j < 4
  · exact h j h4 hj
  · exact BitVec.getLsbD_of_ge sel j (Nat.le_of_not_lt h4)

theorem wit_ShowTextOutsideGeometry :
    Accepts (ready 0) ∧ (0b0101 : BitVec 4).getLsbD 2 = true ∧ (∀ j, 2 < j → (0b0101 : BitVec 4).getLsbD j = false) ∧
      (ready 0).geomRows.toNat ≤ 2 :=
  ⟨by decide, by decide, no_bit_from_4 (n := 3) (by decide), by decide⟩

theorem wit_EveryRequestIsAnswered : isRequest .clear = true ∧ (ready 0).seq = .idle := by decide

/-- A request and the state it leaves. -/
def Runs (i : Instr) (s : State) : Prop := isRequest i = true ∧ exec i s = .next (after i s)

theorem runs {i : Instr} {s : State} (hi : isRequest i = true) (h : isNext (exec i s) = true) : Runs i s :=
  ⟨hi, next_of_isNext h⟩

theorem wit_BusErrorIsLastEvent_error :
    Runs .clear (failing 5 false) ∧ (after .clear (failing 5 false)).result = some (.busError 7) :=
  ⟨runs (by decide) (by decide +kernel), by decide +kernel⟩
theorem wit_BusErrorIsLastEvent_ok : Runs .clear (ready 6) ∧ (after .clear (ready 6)).result = some .ok :=
  ⟨runs (by decide) (by decide +kernel), by decide +kernel⟩

theorem wit_FailedTransactionEndsRequest :
    1 < opTxCount [.tx 0x30 false true, .delay 5, .tx 0x30 false false] ∧ (failing 1 true).trace = [] ∧
      (failing 1 true).answers = List.replicate 1 .ok ++ .err 7 true :: [] := by decide

theorem wit_MicroOpEffects :
    (ready 1).answers = .ok :: [] ∧ (failing 0 false).answers = .err 7 false :: [] ∧
      (failing 0 true).answers = .err 7 true :: [] := by decide

theorem wit_EveryTransactionOfARequest :
    Runs (.setBacklight false) (ready 1) ∧
      Event.tx 0x0027 0x00 .ok ∈ (after (.setBacklight false) (ready 1)).trace :=
  ⟨runs (by decide) (by decide), by decide⟩

theorem wit_StrobeLowAfterOk :
    Runs .clear (ready 6) ∧ (after .clear (ready 6)).result = some .ok ∧
      sentBytes (after .clear (ready 6)).trace ≠ [] :=
  ⟨runs (by decide) (by decide +kernel), by decide +kernel, by decide +kernel⟩

theorem wit_SequencerRefinesRequest :
    (ready 6).arrivals = [] ∧ decodeFrame (ready 6).rx = .error .incomplete := by decide

theorem wit_BlockIgnoresController : step (ready 6) = .next (stepped (ready 6)) := next_of_isNext (by decide)

theorem wit_RequestFrame_noTx :
    Runs (.print []) (ready 0) ∧ isInit (.print []) = false ∧ isEntryRequest (.print []) = false ∧
      isDisplayRequest (.print []) = false ∧ isBacklightRequest (.print []) = false ∧
      sentBytes (after (.print []) (ready 0)).trace = [] :=
  ⟨runs (by decide) (by decide), by decide⟩

theorem wit_ShadowRegistersKeepTheirValue : Accepts (failing 0 false) := by decide

theorem wit_InitResultDecidesLife :
    State.reset.seq = .idle ∧ ((4 : Byte) = 1 ∨ (4 : Byte) = 2 ∨ (4 : Byte) = 4) ∧ 1 ≤ (20 : Byte).toNat ∧
      (20 : Byte).toNat ≤ 20 := by decide

theorem wit_FlagRequestsAreIdempotent :
    let t := after .cursorOn (ready 12)
    isDisplayRequest .cursorOn = true ∧ exec .cursorOn (ready 12) = .next t ∧ t.result = some .ok ∧
      exec .cursorOn t = .next (after .cursorOn t) ∧ (after .cursorOn t).result = some .ok :=
  ⟨by decide, next_of_isNext (by decide +kernel), by decide +kernel, next_of_isNext (by decide +kernel), by decide +kernel⟩

theorem wit_ClearAndHomeComplete : Accepts (ready 6) ∧ AnswersOk 6 [] (ready 6) := by decide
theorem wit_FlagRequestsComplete : Accepts (ready 6) ∧ AnswersOk 6 [] (ready 6) := by decide
theorem wit_SetBacklightCompletes : Accepts (ready 1) ∧ AnswersOk 1 [] (ready 1) := by decide
theorem wit_WriteByteCompletes : Accepts (ready 6) ∧ AnswersOk 6 [] (ready 6) := by decide

theorem wit_SetCursorCompletes_last_cell :
    Accepts (ready4 6) ∧ AnswersOk 6 [] (ready4 6) ∧ (19 : Byte).toNat < (ready4 6).geomCols.toNat ∧
      (3 : Byte).toNat < (ready4 6).geomRows.toNat := by decide
theorem wit_SetCursorCompletes_clamp :
    let s := { ready4 6 with optClamp := true }
    Accepts s ∧ AnswersOk 6 [] s ∧ (0 : Byte).toNat < s.geomCols.toNat ∧ s.geomRows.toNat ≤ (4 : Byte).toNat ∧
      s.optClamp = true := by decide

theorem wit_PrintCompletes : Accepts (ready 12) ∧ AnswersOk (6 * [0x48#8, 0x69#8].length) [] (ready 12) := by decide

theorem wit_ShowTextCompletes_unselected : Accepts (ready 12) ∧ AnswersOk (6 * [0x48#8, 0x69#8].length) [] (ready 12) := by
  decide
theorem wit_ShowTextCompletes_selected :
    Accepts (ready 36) ∧ (0b0010 : BitVec 4).getLsbD 1 = true ∧ (∀ j, j < 1 → (0b0010 : BitVec 4).getLsbD j = false) ∧
      (∀ j, (ready 36).geomRows.toNat ≤ j → (0b0010 : BitVec 4).getLsbD j = false) ∧
      AnswersOk (txCount (chunkEvents (ready 36) 1 (layout [0x48, 0x65, 0x6C, 0x6C, 0x6F] 0b0010 false false
        (ready 36).geomCols.toNat))) [] (ready 36) :=
  ⟨by decide, by decide, by decide, no_bit_from_4 (n := 2) (by decide), by decide +kernel⟩

theorem wit_UploadGlyphCompletes :
    Accepts (ready 72) ∧ AnswersOk (6 + 6 * (List.replicate 11 0x1F#8).length) [] (ready 72) := by decide

theorem wit_InitCompletes :
    let s := { State.reset with answers := List.replicate 42 .ok }
    s.seq = .idle ∧ AnswersOk 42 [] s ∧ ((1 : Byte) = 1 ∨ (1 : Byte) = 2 ∨ (1 : Byte) = 4) ∧ 1 ≤ (1 : Byte).toNat ∧
      (1 : Byte).toNat ≤ 20 := by decide

theorem wit_CountsOfCompletedRequests :
    exec .clear (ready 6) = .next (after .clear (ready 6)) ∧ (after .clear (ready 6)).result = some .ok :=
  ⟨next_of_isNext (by decide +kernel), by decide +kernel⟩

theorem wit_ByteTransferDeliversItsWord : InStep (ready 0).lcd := by decide
theorem wit_PartialByteFraming : InStep (ready 0).lcd := by decide

theorem wit_InitBringsControllerIntoStep :
    let s := { ready 42 with life := .uninitialized }
    s.seq = .idle ∧ AnswersOk 42 [] s ∧ ((2 : Byte) = 1 ∨ (2 : Byte) = 2 ∨ (2 : Byte) = 4) ∧ 1 ≤ (16 : Byte).toNat ∧
      (16 : Byte).toNat ≤ 20 ∧ s.lcd.panel.framed = true ∧ (s.lcd.obs.mode = .eight ∨ s.lcd.obs.phase = .high) := by decide

theorem wit_RequestsAndControllerMemory_flag :
    isDisplayRequest .cursorOn = true ∧ Lawful (ready 6) ∧ exec .cursorOn (ready 6) = .next (after .cursorOn (ready 6)) ∧
      (after .cursorOn (ready 6)).result = some .ok ∧ InStep (ready 6).lcd ∧ (ready 6).lcd.panel.framed = true :=
  ⟨by decide, ready_lawful, next_of_isNext (by decide +kernel), by decide +kernel, by decide, by decide⟩
theorem wit_RequestsAndControllerMemory_clear :
    exec .clear (ready 6) = .next (after .clear (ready 6)) ∧ (after .clear (ready 6)).result = some .ok ∧
      InStep (ready 6).lcd ∧ (ready 6).lcd.panel.framed = true :=
  ⟨next_of_isNext (by decide +kernel), by decide +kernel, by decide, by decide⟩

/-- The start state with its address counter at the last cell of DDRAM, so that one byte fits. -/
def atLastCell (k : Nat) : State :=
  { ready k with lcd := { (ready k).lcd with panel := { (ready k).lcd.panel with ac := 127 } } }

theorem wit_PrintStoresText :
    Accepts (atLastCell 6) ∧ AnswersOk (6 * [0x48#8].length) [] (atLastCell 6) ∧ InStep (atLastCell 6).lcd ∧
      (atLastCell 6).lcd.panel.framed = true ∧
      CellsFit (atLastCell 6).lcd.obs.region (atLastCell 6).lcd.panel.inc (atLastCell 6).lcd.panel.ac.toNat
        [0x48#8].length :=
  ⟨by decide, by decide, by decide, by decide, by unfold CellsFit; decide⟩

/-- The pointer stands in CGRAM where an upload left it, at the first cell and past the last one. -/
theorem wit_PrintStoresText_uploaded :
    let s (a : BitVec 7) : State := { ready 6 with
      lcd := { obs := { (ready 6).lcd.obs with region := .cgram },
               panel := { (ready 6).lcd.panel with ac := a, uploaded := true } } }
    ∀ a ∈ [0, 64], Accepts (s a) ∧ AnswersOk (6 * [0x41#8].length) [] (s a) ∧ InStep (s a).lcd ∧
      (s a).lcd.panel.framed = true ∧ (s a).lcd.obs.region = .cgram ∧ (s a).lcd.panel.uploaded = true := by decide

theorem wit_UploadGlyphStoresBitmap :
    Accepts (ready 54) ∧ AnswersOk (6 + 6 * (List.replicate 8 0x1F#8).length) [] (ready 54) ∧ InStep (ready 54).lcd ∧
      (ready 54).lcd.panel.framed = true ∧
      CellsFit .cgram (ready 54).lcd.panel.inc (8 * ((7 : BitVec 7).toNat % 8)) (List.replicate 8 0x1F#8).length :=
  ⟨by decide, by decide, by decide, by decide, by unfold CellsFit; decide⟩
/-- 11 bytes to slot 6, the last slot they fit in; cell 58 is row 2 of the next slot, and cell 59 is no longer lost. -/
theorem wit_UploadGlyphStoresBitmap_11 :
    Accepts (ready 72) ∧ AnswersOk (6 + 6 * (List.replicate 11 0x1F#8).length) [] (ready 72) ∧ InStep (ready 72).lcd ∧
      (ready 72).lcd.panel.framed = true ∧
      CellsFit .cgram (ready 72).lcd.panel.inc (8 * ((6 : BitVec 7).toNat % 8)) (List.replicate 11 0x1F#8).length ∧
      (58 / 8 = ((6 : BitVec 7).toNat % 8 + 1) % 8 ∧ 58 % 8 < 3) ∧ ¬ 59 % 8 < 3 :=
  ⟨by decide, by decide, by decide, by decide, by unfold CellsFit; decide, by decide, by decide⟩

theorem wit_ShowTextStoresRows :
    Accepts (ready 36) ∧ InStep (ready 36).lcd ∧ (ready 36).lcd.panel.framed = true ∧ (ready 36).lcd.panel.inc = true ∧
      (0b0010 : BitVec 4).getLsbD 1 = true ∧ (∀ j, j < 1 → (0b0010 : BitVec 4).getLsbD j = false) ∧
      (∀ j, (ready 36).geomRows.toNat ≤ j → (0b0010 : BitVec 4).getLsbD j = false) ∧ (ready 36).geomCols.toNat ≤ 20 ∧
      AnswersOk (txCount (chunkEvents (ready 36) 1 (layout [0x48, 0x65, 0x6C, 0x6C, 0x6F] 0b0010 false false
        (ready 36).geomCols.toNat))) [] (ready 36) :=
  ⟨by decide, by decide, by decide, by decide, by decide, by decide, no_bit_from_4 (n := 2) (by decide), by decide,
    by decide +kernel⟩

theorem wit_ExpanderBytesReachThePort_low : (ready 0).lcd.obs.prevE = false := by decide
theorem wit_ExpanderBytesReachThePort_high : State.reset.lcd.obs.prevE = true := by decide

theorem wit_WriteDataStores_up :
    (ready 0).lcd.panel.inc = true ∧ (ready 0).lcd.panel.ac.toNat + 1 < addressCount (ready 0).lcd.obs.region ∧
      (ready 0).lcd.panel.shiftOn = false := by decide
theorem wit_WriteDataStores_down :
    let s := { atLastCell 0 with
      lcd := { (atLastCell 0).lcd with panel := { (atLastCell 0).lcd.panel with inc := false } } }
    s.lcd.panel.inc = false ∧ 0 < s.lcd.panel.ac.toNat ∧ s.lcd.panel.ac.toNat < addressCount s.lcd.obs.region := by decide

/-- The start state with this region and address counter. -/
def pointing (r : Region) (a : BitVec 7) : State :=
  { ready 0 with
    lcd := { obs := { (ready 0).lcd.obs with region := r }, panel := { (ready 0).lcd.panel with ac := a } } }

theorem wit_WriteDataStores_last_cgram_cell :
    (pointing .cgram 63).lcd.obs.region = .cgram ∧ (pointing .cgram 63).lcd.panel.ac.toNat < 64 := by decide
theorem wit_WriteDataStores_uploaded :
    (pointing .cgram 63).lcd.panel.uploaded = false ∧
      (after (.uploadGlyph 0 (List.replicate 8 0)) (ready 54)).lcd.panel.uploaded = true := by decide +kernel
theorem wit_WriteDataStores_past_cgram :
    (pointing .cgram 64).lcd.obs.region = .cgram ∧ 64 ≤ (pointing .cgram 64).lcd.panel.ac.toNat := by decide
theorem wit_WriteDataStores_unknown : (pointing .unknown 0).lcd.obs.region = .unknown := by decide

/-- The ends of R86's ranges: a raw 0:33 among them. -/
theorem wit_UnemittedWordsHaveAnyEffect :
    Lawful (ready 6) ∧ Accepts (ready 6) ∧ AnswersOk 6 [] (ready 6) ∧ InStep (ready 6).lcd ∧
      (0x10 ≤ (0x10 : Byte).toNat ∧ (0x1F : Byte).toNat ≤ 0x1F) ∧
      (0x20 ≤ (0x33 : Byte).toNat ∧ (0x33 : Byte).toNat ≤ 0x3F ∧ (0x33 : Byte) ≠ 0x20 ∧ (0x33 : Byte) ≠ 0x24 ∧
        (0x33 : Byte) ≠ 0x28) :=
  ⟨ready_lawful, by decide, by decide, by decide, by decide, by decide⟩

/-- A controller out of step (R146), and what a request delivers to it: CLEAR's word. -/
theorem wit_UnemittedWordsHaveAnyEffect_misframed :
    isRequest .clear = true ∧ isInit .clear = false ∧ Lawful (misframed 6) ∧ (misframed 6).lcd.panel.framed = false ∧
      exec .clear (misframed 6) = .next (after .clear (misframed 6)) ∧
      (after .clear (misframed 6)).lcd.obs.words ≠ (misframed 6).lcd.obs.words :=
  ⟨by decide, by decide, misframed_lawful, by decide, next_of_isNext (by decide +kernel), by decide +kernel⟩

theorem wit_InitNibblesAreLatched_eight : State.reset.lcd.obs.mode = .eight ∧ State.reset.lcd.obs.prevE = true := by decide
theorem wit_InitNibblesAreLatched_framed : (eightBit 0).lcd.obs.mode = .eight ∧ (eightBit 0).lcd.panel.framed = true := by
  decide
/-- The ends of the classes R112 tells: FUNCTION_SET with DL = 0 and 1, and nibbles that are none. -/
theorem wit_InitNibblesAreLatched_nibbles :
    (0x2 : Nibble).extractLsb' 1 3 = 0b001#3 ∧ (0x3 : Nibble).extractLsb' 1 3 = 0b001#3 ∧
      (0x1 : Nibble).extractLsb' 1 3 ≠ 0b001#3 ∧ (0x4 : Nibble).extractLsb' 2 2 = 0b01#2 ∧
      (0x7 : Nibble).extractLsb' 2 2 = 0b01#2 ∧ (0x8 : Nibble).getLsbD 3 = true := by decide
theorem wit_InitNibblesAreLatched_high : (ready 0).lcd.obs.mode = .four ∧ (ready 0).lcd.obs.phase = .high := by decide
theorem wit_InitNibblesAreLatched_low :
    let s := { ready 0 with lcd := { (ready 0).lcd with obs := { (ready 0).lcd.obs with phase := .low } } }
    s.lcd.obs.mode = .four ∧ s.lcd.obs.phase = .low := by decide

theorem wit_LayoutOfEmptyOrUnselected : letters ≠ [] := by decide

/-- A selection from row 1 to row 2, and one of a single row. -/
theorem wit_LayoutChunksFitRows :
    1 ≤ 4 ∧ (0b0110 : BitVec 4).getLsbD 1 = true ∧ (∀ j, j < 1 → (0b0110 : BitVec 4).getLsbD j = false) ∧
      (0b0110 : BitVec 4).getLsbD 2 = true ∧ (∀ j, 2 < j → (0b0110 : BitVec 4).getLsbD j = false) :=
  ⟨by decide, by decide, by decide, by decide, no_bit_from_4 (n := 3) (by decide)⟩
theorem wit_LayoutCutsText :
    1 ≤ 1 ∧ (0b1000 : BitVec 4).getLsbD 3 = true ∧ (∀ j, j < 3 → (0b1000 : BitVec 4).getLsbD j = false) ∧
      (∀ j, 3 < j → (0b1000 : BitVec 4).getLsbD j = false) :=
  ⟨by decide, by decide, by decide, no_bit_from_4 (n := 4) (by decide)⟩
theorem wit_LayoutMarksOverflow :
    1 ≤ 4 ∧ (0b0110 : BitVec 4).getLsbD 1 = true ∧ (∀ j, j < 1 → (0b0110 : BitVec 4).getLsbD j = false) ∧
      (0b0110 : BitVec 4).getLsbD 2 = true ∧ (∀ j, 2 < j → (0b0110 : BitVec 4).getLsbD j = false) ∧
      (2 - 1 + 1) * 4 < letters.length :=
  ⟨by decide, by decide, by decide, by decide, no_bit_from_4 (n := 3) (by decide), by decide⟩
theorem wit_LayoutPadsRows :
    1 ≤ 5 ∧ (0b0110 : BitVec 4).getLsbD 1 = true ∧ (∀ j, j < 1 → (0b0110 : BitVec 4).getLsbD j = false) ∧
      (0b0110 : BitVec 4).getLsbD 2 = true ∧ (∀ j, 2 < j → (0b0110 : BitVec 4).getLsbD j = false) ∧ letters ≠ [] ∧
      letters.length ≤ (2 - 1 + 1) * 5 :=
  ⟨by decide, by decide, by decide, by decide, no_bit_from_4 (n := 3) (by decide), by decide, by decide⟩

end Sys2Proof.Tests
end

section
/-! What a step runs, said once: the decoded instruction with its bits taken, or one micro-step. -/

namespace Sys2Proof.Machine

/-! ### What a step runs -/

theorem step_busy {s : State} {ops : List Op} {k : Nat} {e : Ending} (h : s.seq = .busy ops k e) :
    step s = .next (microStep s) := by
  simp only [step, fetch, h]

section
variable {s : State} (hs : s.seq = .idle)
include hs

theorem step_frame {i : Instr} {rest : List Byte} (ha : s.arrivals = []) (hd : decodeFrame s.rx = .ok (i, rest)) :
    step s = exec i { s with rx := rest } := by
  simp only [step, fetch, hs, ha, hd]

theorem step_wire {b : Byte} {i : Instr} {rest : List Arrival} (ha : s.arrivals = .wire b :: rest)
    (hd : decodeWire b = .ok i) : step s = exec i { s with arrivals := rest } := by
  simp only [step, fetch, fetchArrival, hs, ha, hd]

theorem step_word {w : CtrlWord} {rest : List Arrival} (ha : s.arrivals = .word w :: rest) :
    step s = exec (decodeWord w) { s with arrivals := rest } := by
  simp only [step, fetch, fetchArrival, hs, ha]

theorem step_nibble {v : BitVec 5} {i : Instr} {rest : List Arrival} (ha : s.arrivals = .nibble v :: rest)
    (hd : decodeNibble v = .ok i) : step s = exec i { s with arrivals := rest } := by
  simp only [step, fetch, fetchArrival, hs, ha, hd]

/-- No complete frame: the machine waits (R76). -/
theorem step_wait {err : DecodeError} (ha : s.arrivals = []) (hd : decodeFrame s.rx = .error err) :
    step s = .next s := by
  simp only [step, fetch, hs, ha, hd]

end

/-! ### What is fetched -/

/-- Where an instruction or a nibble is fetched, its bits are taken and nothing else. -/
theorem fetch_taken {s s' : State} (h : (∃ i, fetch s = .run i s') ∨ ∃ n rs, fetch s = .strobe n rs s') :
    s' = { s with rx := s'.rx, arrivals := s'.arrivals } := by
  rcases h with ⟨i, h⟩ | ⟨n, rs, h⟩
  all_goals
    unfold fetch fetchArrival at h
    repeat' split at h
    all_goals cases h
    all_goals rfl

/-- Settles O8: one clause per layer, and the busy sequencer. -/
theorem stepRunsDecodedInstruction : Obligations.StepRunsDecodedInstruction := by
  unfold Obligations.StepRunsDecodedInstruction
  exact ⟨fun _ _ _ hs ha hd => step_frame hs ha hd, fun _ _ _ _ hs ha hd => step_wire hs ha hd,
    fun _ _ _ hs ha => step_word hs ha, fun _ _ _ _ hs ha hd => step_nibble hs ha hd,
    fun _ _ _ _ hs => step_busy hs⟩

end Sys2Proof.Machine
end

section
/-! The bytes of the wire level: the fields of an expander byte, and what a WIRE instruction does. -/

namespace Sys2Proof.Machine

/-! ### The fields of a WIRE byte (R77) -/

@[simp] theorem wireBits_nibble (d : Nibble) (bl e rs : Bool) : (wireBits d bl e rs).extractLsb' 4 4 = d := by
  revert d bl e rs; decide

@[simp] theorem wireBits_strobe (d : Nibble) (bl e rs : Bool) : (wireBits d bl e rs).getLsbD 2 = e := by
  revert d bl e rs; decide

@[simp] theorem wireBits_registerSelect (d : Nibble) (bl e rs : Bool) : (wireBits d bl e rs).getLsbD 0 = rs := by
  revert d bl e rs; decide

/-! ### The fields of `W(n, rs, e)` (R79) -/

@[simp] theorem wireByte_readWrite (bl : Bool) (n : Byte) (rs e : Bool) : (wireByte bl n rs e).getLsbD 1 = false := by
  simp [wireByte, bitByte]

@[simp] theorem wireByte_backlight (bl : Bool) (n : Byte) (rs e : Bool) : (wireByte bl n rs e).getLsbD 3 = bl := by
  simp [wireByte, bitByte]

/-! ### WIRE instructions -/

theorem exec_wireELow (d : Nibble) (bl rs : Bool) (s : State) :
    exec (.wireELow d bl rs) s = .next (reach (wireBits d bl false rs) s) := rfl

theorem exec_wireEHigh (d : Nibble) (bl rs : Bool) (s : State) :
    exec (.wireEHigh d bl rs) s = .next (reach (wireBits d bl true rs) s) := rfl

/-- Settles O50: the observer's three answers to a byte, by the E line before and after it. -/
theorem expanderBytesReachThePort : Obligations.ExpanderBytesReachThePort := by
  unfold Obligations.ExpanderBytesReachThePort
  intro d bl rs s
  refine ⟨?_, fun hE => ?_, fun hE => ?_⟩
  · rw [exec_wireEHigh, reach, lcdObserve_high _ _ (wireBits_strobe ..)]
  · rw [exec_wireELow, reach, lcdObserve_low_low _ _ (wireBits_strobe ..) hE]
  · rw [exec_wireELow, reach, lcdObserve_fall _ _ (wireBits_strobe ..) hE, wireBits_nibble, wireBits_registerSelect]

end Sys2Proof.Machine
end

section
/-! What a request can do, said once: it is answered without a Tx, or it writes its registers and performs its
micro-ops. -/

namespace Sys2Proof.Machine

/-! ### Acceptance, read backwards -/

theorem endRequest_accepted (r : Result) {s : State} (hs : s.seq = .idle) :
    endRequest r { s with trace := [], result := none } = answered s r := by
  simp only [endRequest, answered, hs]

theorem acceptIdle_next {s t : State} {body : State → StepOutcome} (h : acceptIdle s body = .next t) :
    s.seq = .idle ∧ body { s with trace := [], result := none } = .next t := by
  by_cases hs : s.seq = .idle
  · exact ⟨hs, acceptIdle_idle s body hs ▸ h⟩
  · rw [acceptIdle_busy s body hs] at h
    cases h

theorem acceptReady_next {s t : State} {body : State → StepOutcome} (h : acceptReady s body = .next t) :
    s.seq = .idle ∧ (t = answered s .uninitialized ∨ body { s with trace := [], result := none } = .next t) := by
  rcases acceptReady_cases s body with ⟨-, hb⟩ | ⟨hs, -, hb⟩ | ⟨⟨hs, -⟩, hb⟩ <;> rw [hb] at h
  · cases h
  · cases h
    exact ⟨hs, .inl rfl⟩
  · exact ⟨hs, .inr h⟩

/-! ### The register writes of a request that runs (R131, R135 to R145, R147) -/

/-- The mask names one of DISPCTL's three flags (R28). -/
abbrev IsDisplayFlag (mask : Byte) : Prop := mask = dispD ∨ mask = dispC ∨ mask = dispB

/-- The mask names one of ENTRY's two flags (R27). -/
abbrev IsEntryFlag (mask : Byte) : Prop := mask = entryId ∨ mask = entryS

/-- `new` is the register with one flag set or cleared. -/
abbrev FlagWritten (mask old new : Byte) : Prop := new = setFlag mask old ∨ new = clearFlag mask old

/-- `RequestRuns s i e ops t`: accepted in `s`, the request `i` writes its registers, which gives `t`, and then performs
`ops` with the ending `e`. -/
inductive RequestRuns (s : State) : Instr → Ending → List Op → State → Prop
  | init {rows cols : Byte} {addr : HalfWord} {clamp font backlight : Bool} :
    geometryLegal rows cols = true →
    RequestRuns s (.init rows cols addr clamp font backlight) .init
      (initOps s.timing (funcsetOf rows font) dispctlOfInit entryOfInit)
      (initRegisters rows cols addr clamp font backlight s)
  | display {i : Instr} (mask dispctl : Byte) :
    isDisplayRequest i = true → IsDisplayFlag mask → FlagWritten mask s.dispctl dispctl →
    RequestRuns s i .plain (byteOps s.timing (displayCommand dispctl) false) { s with dispctl := dispctl }
  | entry {i : Instr} (mask entry : Byte) :
    isEntryRequest i = true → IsEntryFlag mask → FlagWritten mask s.entry entry →
    RequestRuns s i .plain (byteOps s.timing (entryCommand entry) false) { s with entry := entry }
  | backlight {on : Bool} : RequestRuns s (.setBacklight on) .plain blPushOps { s with bl := on }
  | glyph {slot : BitVec 7} {bitmap : List Byte} :
    RequestRuns s (.uploadGlyph slot bitmap) (glyphEnding slot bitmap)
      (byteOps s.timing (cgramCommand (cgAddr slot)) false ++ dataOps s.timing bitmap) s
  | sends {i : Instr} {ops : List Op} : isInit i = false → RequestRuns s i .plain ops s

/-- What a request that moves does: an idle sequencer answers it at once, or runs it. -/
def RequestMoves (i : Instr) (s t : State) : Prop :=
  s.seq = .idle ∧ ((∃ r, t = answered s r) ∨
    ∃ e ops s1, RequestRuns { s with trace := [], result := none } i e ops s1 ∧ t = perform e ops s1)

namespace RequestMoves

variable {i : Instr} {s t : State} {body : State → StepOutcome}

theorem of_invalidPosition {row col : Byte} (hs : s.seq = .idle)
    (h : invalidPosition row col { s with trace := [], result := none } = .next t) : RequestMoves i s t := by
  cases h
  exact ⟨hs, .inl ⟨_, endRequest_accepted _ hs⟩⟩

theorem of_perform {e : Ending} {ops : List Op} {s1 : State} (hs : s.seq = .idle)
    (hr : RequestRuns { s with trace := [], result := none } i e ops s1)
    (h : (.next (perform e ops s1) : StepOutcome) = .next t) : RequestMoves i s t := by
  cases h
  exact ⟨hs, .inr ⟨e, ops, s1, hr, rfl⟩⟩

/-- A request that needs a Ready block, by what its body does. -/
theorem of_acceptReady (h : acceptReady s body = .next t)
    (hb : s.seq = .idle → body { s with trace := [], result := none } = .next t → RequestMoves i s t) :
    RequestMoves i s t := by
  obtain ⟨hs, rfl | h⟩ := acceptReady_next h
  · exact ⟨hs, .inl ⟨_, rfl⟩⟩
  · exact hb hs h

/-- A request that runs whenever the block is Ready. -/
theorem of_ready {e : Ending} {ops : List Op} {s1 : State} (h : acceptReady s body = .next t)
    (hr : RequestRuns { s with trace := [], result := none } i e ops s1)
    (hb : body { s with trace := [], result := none } = .next (perform e ops s1)) : RequestMoves i s t :=
  of_acceptReady h fun hs hn => of_perform hs hr (hb ▸ hn)

end RequestMoves

/-- Everything a request of the block can do when it moves. -/
theorem exec_request_moves {i : Instr} {s t : State} (hi : isRequest i = true) (h : exec i s = .next t) :
    RequestMoves i s t := by
  unfold exec at h
  cases i with
  | init rows cols addr clamp font backlight =>
    obtain ⟨hs, h⟩ := acceptIdle_next h
    dsimp only at h
    split at h
    · exact .of_perform hs (.init ‹_›) h
    · cases h
      exact ⟨hs, .inl ⟨_, endRequest_accepted _ hs⟩⟩
  | illegalRequest opcode =>
    obtain ⟨hs, h⟩ := acceptIdle_next h
    cases h
    exact ⟨hs, .inl ⟨_, endRequest_accepted _ hs⟩⟩
  | setCursor row col =>
    refine .of_acceptReady h fun hs h => ?_
    dsimp only at h
    repeat' split at h
    · exact .of_invalidPosition hs h
    · exact .of_perform hs (.sends rfl) h
    · exact .of_invalidPosition hs h
    · exact .of_perform hs (.sends rfl) h
  | showText sel ell pad text =>
    refine .of_acceptReady h fun hs h => ?_
    dsimp only at h
    repeat' split at h
    · exact .of_perform hs (.sends rfl) h
    · exact .of_invalidPosition hs h
    · exact .of_perform hs (.sends rfl) h
  | clear | home | print _ | writeByte _ _ => exact .of_ready h (.sends rfl) rfl
  | setBacklight on => exact .of_ready h .backlight rfl
  | uploadGlyph slot bitmap => exact .of_ready h .glyph rfl
  | cursorOn | blinkOn | displayOn => exact .of_ready h (.display _ _ rfl (by decide) (.inl rfl)) rfl
  | cursorOff | blinkOff | displayOff => exact .of_ready h (.display _ _ rfl (by decide) (.inr rfl)) rfl
  | leftToRight | autoscroll => exact .of_ready h (.entry _ _ rfl (by decide) (.inl rfl)) rfl
  | rightToLeft | noAutoscroll => exact .of_ready h (.entry _ _ rfl (by decide) (.inr rfl)) rfl
  | _ => cases hi

end Sys2Proof.Machine
end

section
/-! What a request's micro-ops leave behind: its trace, the registers, and the port where nothing was sent. -/

namespace Sys2Proof.Machine

/-! ### What no micro-op changes -/

namespace WireOnly

variable {s t : State} (h : WireOnly s t)
include h

theorem devAddr : t.devAddr = s.devAddr := (congrArg State.devAddr h :)
theorem bl : t.bl = s.bl := (congrArg State.bl h :)
theorem seq : t.seq = s.seq := (congrArg State.seq h :)
theorem rx : t.rx = s.rx := (congrArg State.rx h :)
theorem arrivals : t.arrivals = s.arrivals := (congrArg State.arrivals h :)

end WireOnly

/-! ### Events -/

/-- What one micro-op adds to the trace (R11). -/
def opEvent (op : Op) (s : State) : Event :=
  match op with
  | .tx n rs e => .tx s.devAddr (wireByte s.bl n rs e) (nextAnswer s)
  | .delay t => .delay t

theorem transmit_trace (b : Byte) (s : State) :
    (transmit b s).state.trace = s.trace ++ [.tx s.devAddr b (nextAnswer s)] := by
  unfold transmit
  cases nextAnswer s with
  | ok => rfl
  | err info took => cases took <;> rfl

theorem issue_trace (op : Op) (s : State) : (issue op s).state.trace = s.trace ++ [opEvent op s] := by
  cases op with
  | tx n rs e => exact transmit_trace _ s
  | delay t => rfl

/-- What every micro-op keeps, whether it completes or fails, a list of them keeps. -/
theorem runOps_induction {P : State → Prop} (hP : ∀ op s, P s → P (issue op s).state) (ops : List Op) {s : State}
    (h : P s) : P (runOps ops s).state := by
  induction ops generalizing s with
  | nil => exact h
  | cons op ops ih =>
    have h' := hP op s h
    unfold runOps
    cases hi : issue op s with
    | going s' => rw [hi] at h'; exact ih h'
    | failed info s' => rw [hi] at h'; exact h'

theorem runOps_trace_prefix (ops : List Op) (s : State) : s.trace <+: (runOps ops s).state.trace :=
  runOps_induction (P := fun t => s.trace <+: t.trace)
    (fun op t h => issue_trace op t ▸ h.trans (List.prefix_append _ _)) ops (List.prefix_refl _)

theorem finish_trace (e : Ending) (p : Progress) : (finish e p).trace = p.state.trace := by
  cases p <;> rfl

theorem perform_trace (e : Ending) (ops : List Op) (s : State) :
    (perform e ops s).trace = (runOps ops (startSeq e ops s)).state.trace := finish_trace _ _

/-! ### Registers after a request -/

section
variable (e : Ending) (ops : List Op) (s : State)

@[simp] theorem perform_geomRows : (perform e ops s).geomRows = s.geomRows := by rw [perform_frame]
@[simp] theorem perform_geomCols : (perform e ops s).geomCols = s.geomCols := by rw [perform_frame]
@[simp] theorem perform_devAddr : (perform e ops s).devAddr = s.devAddr := by rw [perform_frame]
@[simp] theorem perform_optClamp : (perform e ops s).optClamp = s.optClamp := by rw [perform_frame]
@[simp] theorem perform_optFont : (perform e ops s).optFont = s.optFont := by rw [perform_frame]
@[simp] theorem perform_entry : (perform e ops s).entry = s.entry := by rw [perform_frame]
@[simp] theorem perform_dispctl : (perform e ops s).dispctl = s.dispctl := by rw [perform_frame]
@[simp] theorem perform_funcset : (perform e ops s).funcset = s.funcset := by rw [perform_frame]
@[simp] theorem perform_bl : (perform e ops s).bl = s.bl := by rw [perform_frame]
@[simp] theorem perform_seq : (perform e ops s).seq = .idle := by rw [perform_frame]
@[simp] theorem perform_timing : (perform e ops s).timing = s.timing := by rw [perform_frame]
@[simp] theorem perform_rx : (perform e ops s).rx = s.rx := by rw [perform_frame]
@[simp] theorem perform_arrivals : (perform e ops s).arrivals = s.arrivals := by rw [perform_frame]

end

/-- Only INIT's end writes LIFE. -/
theorem perform_life_of_ne_init {e : Ending} (he : e ≠ .init) (ops : List Op) (s : State) :
    (perform e ops s).life = s.life := by
  rcases perform_cases e ops s with ⟨-, h⟩ | ⟨_, -, h⟩
  · rw [h]
    cases e with
    | init => exact absurd rfl he
    | plain | glyph _ _ => rfl
  · exact h

/-! ### Every transaction of a request -/

/-- Every Tx of the trace went to DEV_ADDR with a byte `W(n, rs, e)` of the present BL (R24, R79, R105). -/
def SentByBlock (s : State) : Prop :=
  ∀ addr b ans, Event.tx addr b ans ∈ s.trace → addr = s.devAddr ∧ ∃ n rs e, b = wireByte s.bl n rs e

theorem sentByBlock_issue (op : Op) (s : State) (h : SentByBlock s) : SentByBlock (issue op s).state := by
  have hw := issue_wireOnly op s
  intro addr b ans hm
  rw [hw.devAddr, hw.bl]
  rw [issue_trace, List.mem_append, List.mem_singleton] at hm
  rcases hm with hm | hm
  · exact h addr b ans hm
  · cases op with
    | tx n rs e => cases hm; exact ⟨rfl, n, rs, e, rfl⟩
    | delay t => cases hm

theorem sentByBlock_perform {s : State} (ht : s.trace = []) (e : Ending) (ops : List Op) :
    SentByBlock (perform e ops s) := by
  have hstart : SentByBlock (startSeq e ops s) := fun _ _ _ hm => by simp [ht] at hm
  have hrun := runOps_induction sentByBlock_issue ops hstart
  have hw := runOps_wireOnly ops (startSeq e ops s)
  unfold SentByBlock at hrun ⊢
  rw [perform_devAddr, perform_bl]
  rwa [hw.devAddr, hw.bl, startSeq_devAddr, startSeq_bl, ← perform_trace] at hrun

theorem RequestRuns.trace_eq {s t : State} {i : Instr} {e : Ending} {ops : List Op} (h : RequestRuns s i e ops t) :
    t.trace = s.trace := by
  cases h <;> rfl

/-- Settles O24: every micro-op keeps `SentByBlock`, and a request's trace begins empty. -/
theorem everyTransactionOfARequest : Obligations.EveryTransactionOfARequest := by
  unfold Obligations.EveryTransactionOfARequest
  intro i s t addr b ans hi h hm
  obtain ⟨-, ⟨r, rfl⟩ | ⟨e, ops, s1, hr, rfl⟩⟩ := exec_request_moves hi h
  · simp at hm
  · obtain ⟨haddr, n, rs, e', rfl⟩ := sentByBlock_perform hr.trace_eq e ops addr b ans hm
    exact ⟨haddr, wireByte_readWrite .., by rw [wireByte_backlight, perform_bl]⟩

/-! ### A request that sends nothing -/

@[simp] theorem length_sentBytes_opEvents (addr : HalfWord) (bl : Bool) (ops : List Op) :
    (sentBytes (opEvents addr bl ops)).length = opTxCount ops := by
  induction ops with
  | nil => rfl
  | cons op ops ih => cases op <;> simp [opEvents, sentBytes, opTxCount, ih]

/-- A list of micro-ops with a Tx in it sends a byte, whatever the transport answers. -/
theorem sentBytes_runOps_ne_nil {ops : List Op} (s : State) (h : opTxCount ops ≠ 0) :
    sentBytes (runOps ops s).state.trace ≠ [] := by
  induction ops generalizing s with
  | nil => exact absurd rfl h
  | cons op ops ih =>
    cases op with
    | delay t => exact ih _ h
    | tx n rs e =>
      have hp : (issue (.tx n rs e) s).state.trace <+: (runOps (.tx n rs e :: ops) s).state.trace := by
        unfold runOps
        cases issue (.tx n rs e) s with
        | going s' => exact runOps_trace_prefix ops s'
        | failed info s' => exact List.prefix_refl _
      obtain ⟨rest, hrest⟩ := hp
      rw [← hrest, issue_trace]
      simp [opEvent, sentBytes]

theorem sentBytes_perform_ne_nil (e : Ending) {ops : List Op} (s : State) (h : opTxCount ops ≠ 0) :
    sentBytes (perform e ops s).trace ≠ [] := by
  rw [perform_trace]
  exact sentBytes_runOps_ne_nil _ h

/-- Where nothing was sent, the port and the controller are as before. -/
theorem perform_port_of_silent (ops : List Op) {s : State} (ht : s.trace = [])
    (h : sentBytes (perform .plain ops s).trace = []) :
    (perform .plain ops s).expLatch = s.expLatch ∧ (perform .plain ops s).lcd = s.lcd := by
  have hn : opTxCount ops = 0 := by
    by_contra hne
    exact sentBytes_perform_ne_nil .plain s hne h
  have hb : sentBytes (opEvents s.devAddr s.bl ops) = [] := List.eq_nil_of_length_eq_zero (by simp [hn])
  rw [perform_all_ok .plain ops s s.answers (by simp [AnswersOk, hn]) ht]
  simp [sentOk, hb]

@[simp] theorem opTxCount_initOps (t : Timing) (funcset dispctl entry : Byte) :
    opTxCount (initOps t funcset dispctl entry) = 42 := rfl

/-! ### The registers a request writes -/

namespace RequestRuns

section
variable {s t : State} {i : Instr} {e : Ending} {ops : List Op} (hr : RequestRuns s i e ops t)
include hr

/-- A request whose end does something to the controller sends something. -/
theorem plain_or_sends : e = .plain ∨ opTxCount ops ≠ 0 := by
  cases hr with
  | init _ => exact .inr (by simp)
  | glyph => exact .inr (by simp)
  | display _ _ _ _ _ | entry _ _ _ _ _ | backlight | sends _ => exact .inl rfl

/-- The controller is written before the first micro-op by INIT alone, and the port never. -/
theorem port_eq (he : e = .plain) : t.expLatch = s.expLatch ∧ t.lcd = s.lcd := by
  cases hr with
  | init _ => cases he
  | display _ _ _ _ _ | entry _ _ _ _ _ | backlight | glyph | sends _ => exact ⟨rfl, rfl⟩

theorem port_eq_of_silent (ht : s.trace = []) (h : sentBytes (perform e ops t).trace = []) :
    (perform e ops t).expLatch = s.expLatch ∧ (perform e ops t).lcd = s.lcd := by
  obtain he | hn := hr.plain_or_sends
  · obtain ⟨hlatch, hlcd⟩ := hr.port_eq he
    subst he
    obtain ⟨hlatch', hlcd'⟩ := perform_port_of_silent ops (hr.trace_eq.trans ht) h
    exact ⟨hlatch'.trans hlatch, hlcd'.trans hlcd⟩
  · exact absurd h (sentBytes_perform_ne_nil e t hn)

/-- What no request writes before its first micro-op. -/
theorem host_eq : t.timing = s.timing ∧ t.rx = s.rx ∧ t.arrivals = s.arrivals := by
  cases hr <;> exact ⟨rfl, rfl, rfl⟩

variable (hi : isInit i = false)
include hi

theorem ne_init : e ≠ .init := by
  cases hr with
  | init _ => cases hi
  | glyph => simp [glyphEnding]
  | display _ _ _ _ _ | entry _ _ _ _ _ | backlight | sends _ => simp

/-- The registers that INIT alone writes. -/
theorem config_eq :
    t.life = s.life ∧ t.geomRows = s.geomRows ∧ t.geomCols = s.geomCols ∧ t.devAddr = s.devAddr ∧
      t.optClamp = s.optClamp ∧ t.optFont = s.optFont ∧ t.funcset = s.funcset := by
  cases hr with
  | init _ => cases hi
  | display _ _ _ _ _ | entry _ _ _ _ _ | backlight | glyph | sends _ => exact ⟨rfl, rfl, rfl, rfl, rfl, rfl, rfl⟩

/-- The registers that a group of requests writes. -/
theorem shadow_eq :
    (isEntryRequest i = false → t.entry = s.entry) ∧ (isDisplayRequest i = false → t.dispctl = s.dispctl) ∧
      (isBacklightRequest i = false → t.bl = s.bl) := by
  cases hr with
  | init _ => cases hi
  | display _ _ hd _ _ => exact ⟨fun _ => rfl, fun hn => by simp [hd] at hn, fun _ => rfl⟩
  | entry _ _ he _ _ => exact ⟨fun hn => by simp [he] at hn, fun _ => rfl, fun _ => rfl⟩
  | backlight => exact ⟨fun _ => rfl, fun _ => rfl, fun hn => by cases hn⟩
  | glyph | sends _ => exact ⟨fun _ => rfl, fun _ => rfl, fun _ => rfl⟩

end

end RequestRuns

/-- Settles O28: the micro-ops write no register, so the frame is that of the writes before them. -/
theorem requestFrame : Obligations.RequestFrame := by
  unfold Obligations.RequestFrame
  intro i s t hi h
  obtain ⟨hs, ⟨r, rfl⟩ | ⟨e, ops, s1, hr, rfl⟩⟩ := exec_request_moves hi h
  · simp
  · obtain ⟨htiming, hrx, harr⟩ := hr.host_eq
    simp only [perform_geomRows, perform_geomCols, perform_devAddr, perform_optClamp, perform_optFont, perform_entry,
      perform_dispctl, perform_funcset, perform_bl, perform_seq, perform_timing, perform_rx, perform_arrivals]
    refine ⟨fun hn => ?_, fun hn => (hr.shadow_eq hn).1, fun hn => (hr.shadow_eq hn).2.1,
      fun hn => (hr.shadow_eq hn).2.2, hs.symm, htiming, hrx, harr, hr.port_eq_of_silent rfl⟩
    rw [perform_life_of_ne_init (hr.ne_init hn)]
    exact hr.config_eq hn

/-! ### INIT with a legal geometry -/

theorem geometryLegal_iff (rows cols : Byte) :
    geometryLegal rows cols = true ↔ (rows = 1 ∨ rows = 2 ∨ rows = 4) ∧ 1 ≤ cols.toNat ∧ cols.toNat ≤ 20 := by
  simp [geometryLegal, and_assoc, or_assoc]

theorem funcsetOf_legal {rows : Byte} (font : Bool) (h : rows = 1 ∨ rows = 2 ∨ rows = 4) :
    funcsetOf rows font = if rows = 1 then (if font then 0x04 else 0x00) else 0x08 := by
  rcases h with rfl | rfl | rfl <;> cases font <;> rfl

/-- An INIT that is accepted writes its registers and performs the cold-start sequence (R131). -/
theorem exec_init_legal {rows cols : Byte} (addr : HalfWord) (clamp font backlight : Bool) {s : State}
    (hs : s.seq = .idle) (hg : geometryLegal rows cols = true) :
    exec (.init rows cols addr clamp font backlight) s =
      .next (perform .init (initOps s.timing (funcsetOf rows font) dispctlOfInit entryOfInit)
        (initRegisters rows cols addr clamp font backlight { s with trace := [], result := none })) := by
  have hx : exec (.init rows cols addr clamp font backlight) s = execInit rows cols addr clamp font backlight s := rfl
  rw [hx, execInit, acceptIdle_idle _ _ hs]
  exact if_pos hg

/-- Settles O30: LIFE by the two ways a request ends, every other register by the frame of the micro-ops. -/
theorem initResultDecidesLife : Obligations.InitResultDecidesLife := by
  unfold Obligations.InitResultDecidesLife
  intro rows cols addr clamp font backlight s hs hrows hlow hhigh
  refine ⟨_, exec_init_legal addr clamp font backlight hs ((geometryLegal_iff ..).mpr ⟨hrows, hlow, hhigh⟩), ?_, ?_⟩
  · exact perform_cases .init _ _
  · simp [dispctlOfInit, entryOfInit, funcsetOf_legal font hrows]

end Sys2Proof.Machine
end

section
/-! The sequencer's micro-steps against the atomic request (R33): neither reads SEQ while a micro-op is issued, and
neither reads the controller. -/

namespace Sys2Proof.Machine

/-! ### A field that micro-ops carry along -/

/-- The same outcome of micro-ops in another state. -/
def Progress.map (g : State → State) : Progress → Progress
  | .going s => .going (g s)
  | .failed info s => .failed info (g s)

theorem consumeAnswer_eq (s : State) :
    consumeAnswer s = { s with
      answers := s.answers.tail, draws := if s.answers = [] then s.draws + 1 else s.draws } := by
  unfold consumeAnswer
  cases s.answers <;> simp

/-- No micro-op reads SEQ. -/
theorem issue_setSeq (q : Seq) (op : Op) (s : State) :
    issue op { s with seq := q } = (issue op s).map fun t => { t with seq := q } := by
  cases op with
  | delay t => rfl
  | tx n rs e =>
    have hn : nextAnswer { s with seq := q } = nextAnswer s := rfl
    simp only [issue, transmit, consumeAnswer_eq, hn]
    rcases nextAnswer s with _ | ⟨info, _ | _⟩ <;> rfl

/-- A request's end does not read it either. -/
theorem finish_setSeq (q : Seq) (e : Ending) (p : Progress) :
    finish e (p.map fun t => { t with seq := q }) = finish e p := by
  cases p <;> rfl

theorem finish_runOps_setSeq (q : Seq) (e : Ending) (ops : List Op) (s : State) :
    finish e (runOps ops { s with seq := q }) = finish e (runOps ops s) := by
  induction ops generalizing s with
  | nil => exact finish_setSeq q e (.going s)
  | cons op ops ih =>
    simp only [runOps, issue_setSeq]
    cases issue op s with
    | going t => exact ih t
    | failed info t => exact finish_setSeq q e (.failed info t)

/-! ### One micro-step, by what is left of the list -/

theorem microStep_idle {s : State} (h : s.seq = .idle) : microStep s = s := by
  simp only [microStep, h]

section
variable {s : State} {ops : List Op} {k : Nat} {e : Ending} (hs : s.seq = .busy ops k e)
include hs

theorem microStep_end (hk : ops[k]? = none) : microStep s = finish e (.going s) := by
  simp only [microStep, hs, hk]

theorem microStep_going {op : Op} {t : State} (hk : ops[k]? = some op) (hi : issue op s = .going t) :
    microStep s = { t with seq := .busy ops (k + 1) e } := by
  simp only [microStep, hs, hk, hi]

theorem microStep_failed {op : Op} {info : BusErrorInfo} {t : State} (hk : ops[k]? = some op)
    (hi : issue op s = .failed info t) : microStep s = finish e (.failed info t) := by
  simp only [microStep, hs, hk, hi]

end

/-! ### Runs -/

/-- Nothing is waiting at the block: no arrival downstream and no complete frame. -/
def NothingWaits (s : State) : Prop := s.arrivals = [] ∧ ∃ err, decodeFrame s.rx = .error err

theorem run_succ {s t : State} (n : Nat) (h : step s = .next t) : core.run (n + 1) s = core.run n t := by
  have hc : core.step s = .next t := h
  simp only [Host.Core.run, hc]

/-- An idle machine with nothing waiting stays as it is. -/
theorem run_idle (n : Nat) {s : State} (hs : s.seq = .idle) (hw : NothingWaits s) : core.run n s = .next s := by
  obtain ⟨ha, err, hd⟩ := hw
  induction n with
  | zero => rfl
  | succ n ih => rw [run_succ n (step_wait hs ha hd), ih]

theorem NothingWaits.wireOnly {s t : State} (h : WireOnly s t) (hw : NothingWaits s) : NothingWaits t := by
  unfold NothingWaits
  rwa [h.arrivals, h.rx]

theorem NothingWaits.finish (e : Ending) {p : Progress} (hw : NothingWaits p.state) :
    NothingWaits (finish e p) := by
  cases p <;> exact hw

/-- From micro-op number `k` on, micro-steps past the end reach the state in which the rest of the list ends. -/
theorem run_busy {e : Ending} {ops rest : List Op} {k : Nat} {s : State} (hs : s.seq = .busy ops k e)
    (hr : ops.drop k = rest) (hw : NothingWaits s) :
    core.run (rest.length + 1) s = .next (finish e (runOps rest s)) := by
  have hhead : ops[k]? = rest.head? := by rw [← hr, List.head?_drop]
  induction rest generalizing k s with
  | nil => rw [run_succ _ (step_busy hs), microStep_end hs hhead]; rfl
  | cons op rest ih =>
    have htail : ops.drop (k + 1) = rest := by rw [← List.tail_drop, hr, List.tail_cons]
    have hw' : NothingWaits (issue op s).state := hw.wireOnly (issue_wireOnly op s)
    rw [run_succ _ (step_busy hs), runOps]
    cases hi : issue op s with
    | going t =>
      rw [hi] at hw'
      rw [microStep_going hs hhead hi]
      refine (ih (s := { t with seq := .busy ops (k + 1) e }) rfl htail hw' ?_).trans ?_
      · rw [← htail, List.head?_drop]
      · rw [finish_runOps_setSeq]
    | failed info t =>
      rw [hi] at hw'
      rw [microStep_failed hs hhead hi]
      exact run_idle _ rfl (NothingWaits.finish e hw')

/-- Settles O26: the run from the first micro-op. -/
theorem sequencerRefinesRequest : Obligations.SequencerRefinesRequest := by
  unfold Obligations.SequencerRefinesRequest
  intro e ops s err ha hd
  exact run_busy (startSeq_seq e ops s) List.drop_zero ⟨ha, err, hd⟩

end Sys2Proof.Machine
end

section
/-! No rule of the block reads the controller (R109, R110): each operation, started with another controller behind
the expander, does the same to everything else. -/

namespace Sys2Proof.Machine

/-! ### Micro-ops -/

/-- The transport, the port and the trace do not depend on the controller. -/
theorem issue_setLcd (op : Op) (s : State) (l : Lcd) :
    ∃ l', issue op { s with lcd := l } = (issue op s).map fun t => { t with lcd := l' } := by
  cases op with
  | delay t => exact ⟨l, rfl⟩
  | tx n rs e =>
    have hn : nextAnswer { s with lcd := l } = nextAnswer s := rfl
    simp only [issue, transmit, consumeAnswer_eq, hn]
    rcases nextAnswer s with _ | ⟨info, _ | _⟩ <;> exact ⟨_, rfl⟩

theorem finish_setLcd (e : Ending) (p : Progress) (l : Lcd) :
    ∃ l', finish e (p.map fun t => { t with lcd := l }) = { finish e p with lcd := l' } := by
  cases p <;> exact ⟨_, rfl⟩

theorem runOps_setLcd (ops : List Op) (s : State) (l : Lcd) :
    ∃ l', runOps ops { s with lcd := l } = (runOps ops s).map fun t => { t with lcd := l' } := by
  induction ops generalizing s l with
  | nil => exact ⟨l, rfl⟩
  | cons op ops ih =>
    obtain ⟨l', h⟩ := issue_setLcd op s l
    simp only [runOps, h]
    cases issue op s with
    | going t => exact ih t l'
    | failed info t => exact ⟨l', rfl⟩

/-- The state update `f` does the same to everything but the controller, whatever the controller is. -/
def IgnoresLcd (f : State → State) : Prop := ∀ s l, ∃ l', f { s with lcd := l } = { f s with lcd := l' }

theorem perform_ignoresLcd (e : Ending) (ops : List Op) : IgnoresLcd (perform e ops) := by
  intro s l
  obtain ⟨l', h⟩ := runOps_setLcd ops (startSeq e ops s) l
  exact (finish_setLcd e _ l').imp fun _ hf => (congrArg (finish e) h).trans hf

theorem seq_idle_or_busy (q : Seq) : q = .idle ∨ ∃ ops k e, q = .busy ops k e := by
  cases q with
  | idle => exact .inl rfl
  | busy ops k e => exact .inr ⟨ops, k, e, rfl⟩

theorem microStep_ignoresLcd : IgnoresLcd microStep := by
  intro s l
  obtain hs | ⟨ops, k, e, hs⟩ := seq_idle_or_busy s.seq
  · exact ⟨l, by rw [microStep_idle hs, microStep_idle (s := { s with lcd := l }) hs]⟩
  · cases hk : ops[k]? with
    | none =>
      rw [microStep_end hs hk, microStep_end (s := { s with lcd := l }) hs hk]
      exact finish_setLcd e (.going s) l
    | some op =>
      obtain ⟨l', h⟩ := issue_setLcd op s l
      cases hi : issue op s with
      | going t =>
        rw [hi] at h
        exact ⟨l', by rw [microStep_going hs hk hi, microStep_going (s := { s with lcd := l }) hs hk h]⟩
      | failed info t =>
        rw [hi] at h
        rw [microStep_failed hs hk hi, microStep_failed (s := { s with lcd := l }) hs hk h]
        exact finish_setLcd e (.failed info t) l'

/-! ### Instructions -/

/-- The same for what may have no move: it moves with any other controller too. -/
def MovesIgnoringLcd (f : State → StepOutcome) : Prop :=
  ∀ s t l, f s = .next t → ∃ l', f { s with lcd := l } = .next { t with lcd := l' }

theorem IgnoresLcd.moves {f : State → State} (hf : IgnoresLcd f) : MovesIgnoringLcd fun s => .next (f s) := by
  intro s t l h
  cases h
  exact (hf s l).imp fun _ h => congrArg _ h

theorem MovesIgnoringLcd.acceptIdle {body : State → StepOutcome} (hb : MovesIgnoringLcd body) :
    MovesIgnoringLcd fun s => acceptIdle s body := by
  intro s t l h
  obtain ⟨hs, h⟩ := acceptIdle_next h
  obtain ⟨l', h'⟩ := hb _ _ l h
  exact ⟨l', (acceptIdle_idle { s with lcd := l } body hs).trans h'⟩

theorem MovesIgnoringLcd.acceptReady {body : State → StepOutcome} (hb : MovesIgnoringLcd body) :
    MovesIgnoringLcd fun s => acceptReady s body := by
  intro s t l (h : Machine.acceptReady s body = .next t)
  rcases acceptReady_cases s body with ⟨-, ha⟩ | ⟨hs, hl, ha⟩ | ⟨hs, ha⟩ <;> rw [ha] at h
  · cases h
  · cases h
    exact ⟨l, acceptReady_uninitialized { s with lcd := l } body hs hl⟩
  · obtain ⟨l', h'⟩ := hb _ _ l h
    exact ⟨l', (acceptReady_ready { s with lcd := l } body hs).trans h'⟩

/-- A check of the registers before the body is chosen. -/
theorem MovesIgnoringLcd.ite {c : State → Prop} [DecidablePred c] {f g : State → StepOutcome}
    (hf : MovesIgnoringLcd f) (hg : MovesIgnoringLcd g)
    (hc : ∀ s l, c { s with lcd := l } ↔ c s := by intros; rfl) :
    MovesIgnoringLcd fun s => if c s then f s else g s := by
  intro s t l h
  simp only [hc]
  by_cases hs : c s
  · simp only [hs, if_true] at h ⊢
    exact hf s t l h
  · simp only [hs, if_false] at h ⊢
    exact hg s t l h

/-- Micro-ops made from the registers, performed after register writes. -/
theorem perform_moves {e : Ending} {ops : State → List Op} {g : State → State}
    (hg : IgnoresLcd g) (ho : ∀ s l, ops { s with lcd := l } = ops s := by intros; rfl) :
    MovesIgnoringLcd fun s => .next (perform e (ops s) (g s)) := by
  refine IgnoresLcd.moves fun s l => ?_
  obtain ⟨l', h⟩ := hg s l
  rw [ho, h]
  exact perform_ignoresLcd e (ops s) (g s) l'

theorem id_ignoresLcd : IgnoresLcd fun s => s := fun _ l => ⟨l, rfl⟩

theorem endRequest_moves {r : State → Result} (hr : ∀ s l, r { s with lcd := l } = r s := by intros; rfl) :
    MovesIgnoringLcd fun s => .next (endRequest (r s) s) :=
  IgnoresLcd.moves fun s l => ⟨l, by rw [hr]; rfl⟩

/-- Every instruction that moves does the same to the block, whatever the controller. -/
theorem exec_moves (i : Instr) : MovesIgnoringLcd (exec i) := by
  unfold exec
  cases i with
  | init rows cols addr clamp font backlight =>
    have hreg : IgnoresLcd (initRegisters rows cols addr clamp font backlight) := fun _ l => ⟨lcdResyncStart l, rfl⟩
    exact .acceptIdle (.ite (perform_moves hreg) endRequest_moves)
  | illegalRequest opcode => exact .acceptIdle endRequest_moves
  | setCursor row col =>
    exact .acceptReady (.ite endRequest_moves
      (.ite (.ite (perform_moves id_ignoresLcd) endRequest_moves) (perform_moves id_ignoresLcd)))
  | showText sel ell pad text =>
    exact .acceptReady (.ite (perform_moves id_ignoresLcd) (.ite endRequest_moves (perform_moves id_ignoresLcd)))
  | clear | home | print _ | writeByte _ _ | uploadGlyph _ _ => exact .acceptReady (perform_moves id_ignoresLcd)
  | setBacklight _ | cursorOn | cursorOff | blinkOn | blinkOff | displayOn | displayOff | leftToRight | rightToLeft
  | autoscroll | noAutoscroll => exact .acceptReady (perform_moves fun _ l => ⟨l, rfl⟩)
  | _ => exact IgnoresLcd.moves fun _ _ => ⟨_, rfl⟩

/-! ### A step -/

/-- What is fetched does not depend on the controller: nothing of it is read. -/
def Fetched.map (g : State → State) : Fetched → Fetched
  | .micro => .micro
  | .run i s => .run i (g s)
  | .strobe n rs s => .strobe n rs (g s)
  | .wait => .wait
  | .stop r => .stop r

theorem fetch_setLcd (s : State) (l : Lcd) :
    fetch { s with lcd := l } = (fetch s).map fun t => { t with lcd := l } := by
  simp only [fetch, fetchArrival]
  cases s.seq with
  | busy ops k e => rfl
  | idle =>
    rcases s.arrivals with _ | ⟨b | w | v, rest⟩
    · cases decodeFrame s.rx <;> rfl
    · dsimp only
      cases decodeWire b <;> rfl
    · rfl
    · dsimp only
      cases decodeNibble v <;> rfl

/-- Settles O27: by what the step fetched. -/
theorem blockIgnoresController : Obligations.BlockIgnoresController := by
  unfold Obligations.BlockIgnoresController
  intro s t l h
  unfold step at h ⊢
  rw [fetch_setLcd]
  cases hf : fetch s with
  | micro => rw [hf] at h; exact microStep_ignoresLcd.moves s t l h
  | run i s' => rw [hf] at h; exact exec_moves i s' t l h
  | strobe n rs s' => rw [hf] at h; cases h; exact ⟨_, rfl⟩
  | wait => rw [hf] at h; cases h; exact ⟨l, rfl⟩
  | stop r => rw [hf] at h; cases h

end Sys2Proof.Machine
end

section
/-! What every operation of the controller keeps: an 8-bit interface holds no nibble (R112, R113). The words of the
CMD layer are the words that nibbles make, so what is known of the latter is used for both. -/

namespace Sys2Proof.Machine

/-! ### CMD instructions deliver the words of their class -/

/-- A CMD instruction (R80). -/
def isCommand : Instr → Bool
  | .clearDisplay | .returnHome _ | .entryModeSet _ _ | .displayControl _ _ _ | .functionSet _ _ _ _ | .setCgramAddr _
  | .setDdramAddr _ | .cursorDisplayShift _ _ _ | .noCommand00 | .writeData _ => true
  | _ => false

/-- Decoding the word of a CMD instruction gives it back (R80). -/
theorem decodeWord_wordOf {i : Instr} (hi : isCommand i = true) : decodeWord (wordOf i) = i := by
  cases i with
  | clearDisplay | noCommand00 => rfl
  | returnHome x => revert x; decide
  | entryModeSet inc shift => revert inc shift; decide
  | displayControl d c b => revert d c b; decide
  | functionSet dl n f x => revert dl n f x; decide
  | setCgramAddr a => revert a; decide
  | setDdramAddr a => revert a; decide
  | cursorDisplayShift sc rl x => revert sc rl x; decide
  | writeData d => revert d; decide
  | _ => cases hi

/-- A CMD instruction is the delivery of its word, whole and trusted (notes/assumptions/35.md). -/
theorem exec_command {i : Instr} (hi : isCommand i = true) (s : State) :
    exec i s = .next { s with lcd := lcdDeliver (wordOf i) false true s.lcd } := by
  have hd := decodeWord_wordOf hi
  unfold lcdDeliver
  rw [hd]
  cases i with
  | clearDisplay | returnHome _ | entryModeSet _ _ | displayControl _ _ _ | functionSet _ _ _ _ | setCgramAddr _
  | setDdramAddr _ | cursorDisplayShift _ _ _ | noCommand00 | writeData _ => rfl
  | _ => cases hi

/-! ### An 8-bit interface holds no nibble -/

/-- A nibble is held only by a 4-bit interface (R112, R113). -/
def PhaseWf (l : Lcd) : Prop := l.obs.mode = .eight → l.obs.phase = .high

theorem lcdDeliver_phaseWf (w : CtrlWord) (torn trusted : Bool) (l : Lcd) (h : PhaseWf l) :
    PhaseWf (lcdDeliver w torn trusted l) := by
  unfold lcdDeliver
  split
  case h_5 dl n f x _ =>
    intro hm
    cases dl with
    | false => cases hm
    | true => rfl
  all_goals exact h

theorem lcdLatch_phaseWf (n : Nibble) (rs : Bool) (l : Lcd) (h : PhaseWf l) : PhaseWf (lcdLatch n rs l) := by
  unfold lcdLatch
  split
  · unfold lcdLatchEight
    cases isFunctionNibble n rs with
    | true => exact fun _ => rfl
    | false => exact h
  · rename_i hm
    unfold lcdLatchFour
    split
    · intro he
      cases hm.symm.trans he
    · exact lcdDeliver_phaseWf _ _ _ _ fun _ => rfl

theorem lcdInitNibble_phaseWf (n : Nibble) (l : Lcd) (h : PhaseWf l) : PhaseWf (lcdInitNibble n l) := by
  rw [lcdInitNibble_eq]
  exact lcdLatch_phaseWf n false l h

theorem lcdObserve_phaseWf (b : Byte) (l : Lcd) (h : PhaseWf l) : PhaseWf (lcdObserve b l) := by
  unfold lcdObserve
  dsimp only
  split
  · exact lcdLatch_phaseWf _ _ l h
  · exact h

/-! ### E is not touched by what a nibble does -/

@[simp] theorem lcdDeliver_prevE (w : CtrlWord) (torn trusted : Bool) (l : Lcd) :
    (lcdDeliver w torn trusted l).obs.prevE = l.obs.prevE := (lcdDeliver_latch w torn trusted l).2.2.1

@[simp] theorem lcdLatch_obs_prevE (n : Nibble) (rs : Bool) (l : Lcd) : (lcdLatch n rs l).obs.prevE = l.obs.prevE := by
  unfold lcdLatch
  split
  · unfold lcdLatchEight
    cases isFunctionNibble n rs <;> rfl
  · unfold lcdLatchFour
    split
    · rfl
    · exact lcdDeliver_prevE ..

@[simp] theorem lcdInitNibble_prevE (n : Nibble) (l : Lcd) : (lcdInitNibble n l).obs.prevE = l.obs.prevE := by
  rw [lcdInitNibble_eq]
  exact lcdLatch_obs_prevE n false l

@[simp] theorem lcdInitNibble_resync (n : Nibble) (l : Lcd) :
    (lcdInitNibble n l).panel.resync = l.panel.resync := by
  rw [lcdInitNibble_eq]
  exact lcdLatch_resync n false l

/-! ### A request's end -/

@[simp] theorem lcdAbort_obs (l : Lcd) : (lcdAbort l).obs = l.obs := by
  unfold lcdAbort
  split <;> rfl

/-- The mark that INIT runs is left only where another request ends. -/
theorem lcdEnding_resync {e : Ending} {l : Lcd} (h : (lcdEnding e l).panel.resync = true) :
    l.panel.resync = true ∧ e ≠ .init := by
  rcases e with _ | _ | ⟨slot, _ | _⟩
  · exact ⟨h, by simp⟩
  · cases h
  · exact ⟨h, by simp⟩
  · exact ⟨h, by simp⟩

end Sys2Proof.Machine
end

section
/-! The invariant, kept by each operation and so by a step: micro-ops and micro-steps, the register writes of a
request, and what reaches the controller from elsewhere. -/

namespace Sys2Proof.Machine

/-! ### The flag registers' reserved bits -/

theorem setFlag_reserved {mask reg reserved : Byte} (hm : mask &&& reserved = 0) (hr : reg &&& reserved = 0) :
    setFlag mask reg &&& reserved = 0 := by
  rw [setFlag, BitVec.and_or_distrib_right, hr, hm]
  rfl

theorem clearFlag_reserved {mask reg reserved : Byte} (hr : reg &&& reserved = 0) :
    clearFlag mask reg &&& reserved = 0 := by
  rw [clearFlag, BitVec.and_assoc, BitVec.and_comm _ reserved, ← BitVec.and_assoc, hr]
  exact BitVec.zero_and

theorem funcsetOf_reserved (rows : Byte) (font : Bool) : funcsetOf rows font &&& 0xF3 = 0 := by
  unfold funcsetOf
  generalize decide (1 < rows.toNat) = n
  generalize (font && rows == 1) = f
  revert n f
  decide

theorem FlagWritten.reserved {mask old new reserved : Byte} (h : FlagWritten mask old new) (hm : mask &&& reserved = 0)
    (hr : old &&& reserved = 0) : new &&& reserved = 0 := by
  rcases h with rfl | rfl
  · exact setFlag_reserved hm hr
  · exact clearFlag_reserved hr

/-! ### LIFE and SEQ -/

theorem booted_iff (s : State) : booted s = true ↔ s.life = .ready ∨ ∃ ops k, s.seq = .busy ops k .init := by
  unfold booted
  cases s.seq <;> simp

/-- The mark of a running INIT is not set while SEQ is idle. -/
theorem Lawful.resync_idle {s : State} (h : Lawful s) (hs : s.seq = .idle) : s.lcd.panel.resync = false := by
  by_contra hr
  obtain ⟨ops, k, hb⟩ := h.resync (by simpa using hr)
  cases hs.symm.trans hb

/-! ### What reaches the port or the controller -/

/-- What the controller took without a byte at the port keeps the invariant. -/
theorem Lawful.setLcd {s : State} (h : Lawful s) {l : Lcd} (hE : l.obs.prevE = s.lcd.obs.prevE) (hp : PhaseWf l)
    (hm : MemoryWf l.panel) (hr : l.panel.resync = s.lcd.panel.resync) : Lawful { s with lcd := l } :=
  { h with strobe := hE.trans h.strobe, phase := hp, memory := hm, resync := fun hl => h.resync (hr ▸ hl) }

/-- A byte at the port keeps the invariant. -/
theorem Lawful.reach {s : State} (h : Lawful s) (b : Byte) : Lawful (reach b s) :=
  { h with
    strobe := rfl
    phase := lcdObserve_phaseWf b _ h.phase
    memory := lcdObserve_memoryWf b _ h.memory
    resync := fun hl => h.resync (lcdObserve_resync b _ ▸ hl) }

/-- So does an event being traced, with the answers left changed. -/
theorem Lawful.traced {s : State} (h : Lawful s) {ev : Event}
    (hev : ∀ addr b ans, ev = .tx addr b ans → b.getLsbD 1 = false) (answers : List Answer) (draws : Nat) :
    Lawful { s with trace := s.trace ++ [ev], answers := answers, draws := draws } :=
  { h with
    readWrite := fun addr b ans hm => by
      rcases List.mem_append.mp hm with hm | hm
      · exact h.readWrite addr b ans hm
      · exact hev addr b ans (List.mem_singleton.mp hm).symm }

/-! ### Micro-ops and the request's end -/

theorem Lawful.issue (op : Op) (s : State) (h : Lawful s) : Lawful (issue op s).state := by
  cases op with
  | delay t => exact h.traced (fun _ _ _ he => by cases he) s.answers s.draws
  | tx n rs e =>
    have ht := fun a => h.traced (ev := .tx s.devAddr (wireByte s.bl n rs e) a)
      (fun _ _ _ he => by cases he; exact wireByte_readWrite ..) s.answers.tail
      (if s.answers = [] then s.draws + 1 else s.draws)
    simp only [Machine.issue, transmit, consumeAnswer_eq]
    rcases nextAnswer s with _ | ⟨info, _ | _⟩
    · exact (ht _).reach _
    · exact ht _
    · exact (ht _).reach _

/-- A running request may end: LIFE is made Ready by INIT alone, and the mark that it runs is gone. -/
theorem Lawful.ended {s : State} (h : Lawful s) {life : Life} {l : Lcd} (r : Result)
    (hlife : life = .ready → booted s = true) (hobs : l.obs = s.lcd.obs) (hm : MemoryWf l.panel)
    (hr : l.panel.resync = false) : Lawful (endRequest r { s with life := life, lcd := l }) :=
  { h with
    geometry := fun hb => h.geometry (by
      rcases (booted_iff _).mp hb with hl | ⟨ops, k, hq⟩
      · exact hlife hl
      · cases hq)
    strobe := (congrArg Observer.prevE hobs).trans h.strobe
    phase := by rw [endRequest_lcd, hobs]; exact h.phase
    memory := hm
    resync := fun hl => by cases hr.symm.trans hl }

theorem Lawful.finish {e : Ending} {p : Progress} {ops : List Op} {k : Nat} (h : Lawful p.state)
    (hs : p.state.seq = .busy ops k e) : Lawful (finish e p) := by
  cases p with
  | going s =>
    refine h.ended .ok (fun hl => (booted_iff s).mpr ?_) (lcdEnding_obs e _) (lcdEnding_memoryWf e _ h.memory) ?_
    · cases e with
      | init => exact .inr ⟨ops, k, hs⟩
      | plain | glyph _ _ => exact .inl hl
    · by_contra hr
      obtain ⟨hl, he⟩ := lcdEnding_resync (by simpa using hr)
      obtain ⟨ops', k', hq⟩ := h.resync hl
      cases hs.symm.trans hq
      exact he rfl
  | failed info s =>
    refine h.ended (s := s) (.busError info) (fun hl => (booted_iff s).mpr (.inl hl)) ?_ ?_ ?_
    · simp
    · exact lcdEnding_memoryWf e _ (lcdResyncEnd_memoryWf _ (lcdAbort_memoryWf _ h.memory))
    · by_contra hr
      cases (lcdEnding_resync (by simpa using hr)).1

theorem Lawful.perform {e : Ending} {ops : List Op} {s : State} (h : Lawful (startSeq e ops s)) :
    Lawful (perform e ops s) :=
  (runOps_induction Lawful.issue ops h).finish (runOps_wireOnly ops (startSeq e ops s)).seq

/-- The index of the next micro-op takes no part in the invariant. -/
theorem Lawful.advanced {s : State} (h : Lawful s) {ops : List Op} {k : Nat} {e : Ending} (hs : s.seq = .busy ops k e)
    (k' : Nat) : Lawful { s with seq := .busy ops k' e } :=
  { h with
    geometry := fun hb => h.geometry ((booted_iff s).mpr (by
      rcases (booted_iff _).mp hb with hl | ⟨ops', j, hq⟩
      · exact .inl hl
      · cases hq
        exact .inr ⟨ops, k, hs⟩))
    resync := fun hr => by
      obtain ⟨ops', j, hq⟩ := h.resync hr
      cases hs.symm.trans hq
      exact ⟨ops, k', rfl⟩ }

theorem Lawful.microStep {s : State} (h : Lawful s) : Lawful (microStep s) := by
  obtain hs | ⟨ops, k, e, hs⟩ := seq_idle_or_busy s.seq
  · rwa [microStep_idle hs]
  · cases hk : ops[k]? with
    | none =>
      rw [microStep_end hs hk]
      exact Lawful.finish (p := .going s) h hs
    | some op =>
      have h' := h.issue op s
      have hs' := (issue_wireOnly op s).seq.trans hs
      cases hi : Machine.issue op s with
      | going t =>
        rw [hi] at h' hs'
        rw [microStep_going hs hk hi]
        exact h'.advanced hs' (k + 1)
      | failed info t =>
        rw [hi] at h' hs'
        rw [microStep_failed hs hk hi]
        exact h'.finish hs'

/-! ### Instructions -/

/-- The micro-ops of a request other than INIT are taken. -/
theorem Lawful.startSeq {s : State} (h : Lawful s) (hs : s.seq = .idle) {e : Ending} (he : e ≠ .init) (ops : List Op) :
    Lawful (startSeq e ops s) :=
  { h with
    geometry := fun hb => h.geometry ((booted_iff s).mpr (.inl (by
      rcases (booted_iff _).mp hb with hl | ⟨ops', k, hq⟩
      · exact hl
      · cases hq
        exact absurd rfl he)))
    resync := fun hr => by cases (h.resync_idle hs).symm.trans hr }

/-- A request's register writes keep the invariant, with its micro-ops taken. -/
theorem Lawful.runs {s t : State} {i : Instr} {e : Ending} {ops : List Op} (h : Lawful s) (hs : s.seq = .idle)
    (hr : RequestRuns s i e ops t) : Lawful (Machine.startSeq e ops t) := by
  cases hr with
  | init hg =>
    exact
      { geometry := fun _ => hg
        entry := (by decide : entryOfInit &&& 0xFC = 0)
        dispctl := (by decide : dispctlOfInit &&& 0xF8 = 0)
        funcset := funcsetOf_reserved _ _
        strobe := h.strobe
        phase := h.phase
        memory := h.memory
        resync := fun _ => ⟨_, _, rfl⟩
        readWrite := h.readWrite }
  | display mask dispctl _ hm hw =>
    have hd : Lawful { s with dispctl := dispctl } :=
      { h with dispctl := hw.reserved (by rcases hm with rfl | rfl | rfl <;> decide) h.dispctl }
    exact hd.startSeq hs (by simp) _
  | entry mask entry _ hm hw =>
    have hd : Lawful { s with entry := entry } :=
      { h with entry := hw.reserved (by rcases hm with rfl | rfl <;> decide) h.entry }
    exact hd.startSeq hs (by simp) _
  | @backlight on =>
    have hd : Lawful { s with bl := on } := { h with }
    exact hd.startSeq hs (by simp) _
  | glyph => exact h.startSeq hs (by simp [glyphEnding]) _
  | sends _ => exact h.startSeq hs (by simp) _

/-- The trace of an accepted request begins empty. -/
theorem Lawful.traceEmptied {s : State} (h : Lawful s) (r : Option Result) :
    Lawful { s with trace := [], result := r } :=
  { h with readWrite := fun _ _ _ hm => by cases hm }

theorem Lawful.exec {s t : State} {i : Instr} (h : Lawful s) (hx : exec i s = .next t) : Lawful t := by
  by_cases hi : isRequest i = true
  · obtain ⟨hs, ⟨r, rfl⟩ | ⟨e, ops, s1, hr, rfl⟩⟩ := exec_request_moves hi hx
    · exact h.traceEmptied _
    · exact ((h.traceEmptied none).runs hs hr).perform
  · by_cases hc : isCommand i = true
    · cases (exec_command hc s).symm.trans hx
      exact h.setLcd (by simp) (lcdDeliver_phaseWf _ _ _ _ h.phase) (lcdDeliver_memoryWf _ _ _ _ h.memory)
        (lcdDeliver_resync _ _ _ _)
    · cases i with
      | wireELow d bl rs => cases hx; exact h.reach _
      | wireEHigh d bl rs => cases hx; exact h.reach _
      | initNibble8bit | initNibble4bit =>
        cases hx
        exact h.setLcd (by simp) (lcdInitNibble_phaseWf _ _ h.phase) (lcdInitNibble_memoryWf _ _ h.memory) (by simp)
      | _ => simp [isRequest, isCommand] at hi hc

/-- Taking an instruction's bits keeps the invariant. -/
theorem Lawful.taken {s : State} (h : Lawful s) (rx : List Byte) (arrivals : List Arrival) :
    Lawful { s with rx := rx, arrivals := arrivals } := { h with }

/-- Settles O12: by what the step fetched; a request keeps the invariant because each of its micro-ops does. -/
theorem everyStepKeepsInvariant : Obligations.EveryStepKeepsInvariant := by
  unfold Obligations.EveryStepKeepsInvariant
  intro s t h ht
  unfold step at ht
  cases hf : fetch s with
  | micro => rw [hf] at ht; cases ht; exact h.microStep
  | run i s' =>
    rw [hf] at ht
    have hs' := fetch_taken (.inl ⟨i, hf⟩)
    exact (hs' ▸ h.taken s'.rx s'.arrivals : Lawful s').exec ht
  | strobe n rs s' =>
    rw [hf] at ht
    have hs' := fetch_taken (.inr ⟨n, rs, hf⟩)
    have h' : Lawful s' := hs' ▸ h.taken s'.rx s'.arrivals
    cases ht
    exact h'.setLcd (by simp) (lcdLatch_phaseWf _ _ _ h'.phase) (lcdLatch_memoryWf _ _ _ h'.memory)
      (lcdLatch_resync _ _ _)
  | wait => rw [hf] at ht; cases ht; exact h
  | stop r => rw [hf] at ht; cases ht

end Sys2Proof.Machine
end

section
/-! The bits of the codes' packed bytes: what the decoder and the port read from an option byte, a selector, a slot
byte and an expander byte. -/

namespace Sys2Proof

/-! ### Bits under a mask (R74, R84) -/

/-- Two values that agree under a mask agree in every bit the mask keeps. -/
theorem getLsbD_eq_of_and_eq {n : Nat} {a b m : BitVec n} (h : a &&& m = b &&& m) {k : Nat} (hk : m.getLsbD k = true) :
    a.getLsbD k = b.getLsbD k := by
  simpa [hk] using congrArg (BitVec.getLsbD · k) h

theorem extractLsb'_eq_of_and_eq {n : Nat} {a b m : BitVec n} (h : a &&& m = b &&& m) {start len : Nat}
    (hm : ∀ k, k < len → m.getLsbD (start + k) = true) : a.extractLsb' start len = b.extractLsb' start len := by
  refine BitVec.eq_of_getLsbD_eq fun k hk => ?_
  simp only [BitVec.getLsbD_extractLsb', getLsbD_eq_of_and_eq h (hm k hk)]

/-! ### The packed bytes of a frame (R73) -/

theorem bitByte_bit (b : Bool) : (bitByte b).getLsbD 0 = b := by revert b; decide

theorem initOptions_clamp (clamp font bl : Bool) : (initOptions clamp font bl).getLsbD 0 = clamp := by
  revert clamp font bl; decide

theorem initOptions_font (clamp font bl : Bool) : (initOptions clamp font bl).getLsbD 1 = font := by
  revert clamp font bl; decide

theorem initOptions_backlight (clamp font bl : Bool) : (initOptions clamp font bl).getLsbD 2 = bl := by
  revert clamp font bl; decide

@[simp] theorem textSelector_rows (sel : BitVec 4) (ell pad : Bool) :
    (textSelector sel ell pad).extractLsb' 0 4 = sel := by
  revert sel ell pad; decide

theorem textSelector_ellipsis (sel : BitVec 4) (ell pad : Bool) :
    (textSelector sel ell pad).getLsbD 4 = ell := by
  revert sel ell pad; decide

theorem textSelector_pad (sel : BitVec 4) (ell pad : Bool) : (textSelector sel ell pad).getLsbD 5 = pad := by
  revert sel ell pad; decide

@[simp] theorem slotByte_slot (long : Bool) (slot : BitVec 7) :
    (BitVec.ofBool long ++ slot : Byte).extractLsb' 0 7 = slot := by
  revert long slot; decide

theorem slotByte_long (long : Bool) (slot : BitVec 7) : (BitVec.ofBool long ++ slot : Byte).getLsbD 7 = long := by
  revert long slot; decide

end Sys2Proof

namespace Sys2Proof.Machine

/-! ### Expander bytes (R77 to R79) -/

theorem wireBits_readWrite (d : Nibble) (bl e rs : Bool) : (wireBits d bl e rs).getLsbD 1 = false := by
  revert d bl e rs; decide

theorem wireBits_backlight (d : Nibble) (bl e rs : Bool) : (wireBits d bl e rs).getLsbD 3 = bl := by
  revert d bl e rs; decide

theorem wireByte_registerSelect (bl : Bool) (n : Byte) (rs e : Bool) :
    (wireByte bl n rs e).getLsbD 0 = rs := by
  simp [wireByte, bitByte]

theorem wireByte_strobe (bl : Bool) (n : Byte) (rs e : Bool) : (wireByte bl n rs e).getLsbD 2 = e := by
  simp [wireByte, bitByte]

@[simp] theorem wireByte_nibble (bl : Bool) (n : Byte) (rs e : Bool) :
    (wireByte bl n rs e).extractLsb' 4 4 = n.extractLsb' 4 4 := by
  refine BitVec.eq_of_getLsbD_eq fun k hk => ?_
  interval_cases k <;> simp [wireByte, bitByte]

/-- Settles O22, field by field. -/
theorem wireByteFields : Obligations.WireByteFields := by
  unfold Obligations.WireByteFields
  intro bl n rs e
  exact ⟨wireByte_registerSelect .., wireByte_readWrite .., wireByte_strobe .., wireByte_backlight ..,
    wireByte_nibble ..⟩

end Sys2Proof.Machine
end

section
/-! Request frames, read: a frame that decodes is a well-formed request of exactly the length R89 tells. -/

namespace Sys2Proof

open Machine

/-! ### Payloads that decode (R73) -/

/-- The bytes taken and the ones left are the list again. -/
theorem takeBytes_split {n : Nat} {l data rest : List Byte} (h : takeBytes n l = .ok (data, rest)) :
    l = data ++ rest ∧ data.length = n := by
  obtain ⟨hlen, rfl, rfl⟩ := takeBytes_ok h
  exact ⟨(List.take_append_drop n l).symm, List.length_take_of_le hlen⟩

theorem decodePrint_ok {bytes rest : List Byte} {i : Instr} (h : decodePrint bytes = .ok (i, rest)) :
    ∃ nl nh data, bytes = nl :: nh :: (data ++ rest) ∧ i = .print data ∧ data.length = (halfWordOf nl nh).toNat := by
  unfold decodePrint at h
  split at h
  · split at h
    · cases h
      obtain ⟨rfl, hlen⟩ := takeBytes_split ‹_›
      exact ⟨_, _, _, rfl, rfl, hlen⟩
    · cases h
  · cases h

theorem decodeShowText_ok {bytes rest : List Byte} {i : Instr} (h : decodeShowText bytes = .ok (i, rest)) :
    ∃ ss nl nh text, bytes = ss :: nl :: nh :: (text ++ rest) ∧
      i = .showText (ss.extractLsb' 0 4) (ss.getLsbD 4) (ss.getLsbD 5) text ∧
      text.length = (halfWordOf nl nh).toNat := by
  unfold decodeShowText at h
  split at h
  · split at h
    · cases h
      obtain ⟨rfl, hlen⟩ := takeBytes_split ‹_›
      exact ⟨_, _, _, _, rfl, rfl, hlen⟩
    · cases h
  · cases h

theorem decodeUploadGlyph_ok {bytes rest : List Byte} {i : Instr} (h : decodeUploadGlyph bytes = .ok (i, rest)) :
    ∃ gg bitmap, bytes = gg :: (bitmap ++ rest) ∧ i = .uploadGlyph (gg.extractLsb' 0 7) bitmap ∧
      bitmap.length = if gg.getLsbD 7 then 11 else 8 := by
  unfold decodeUploadGlyph at h
  split at h
  · split at h
    · cases h
      obtain ⟨rfl, hlen⟩ := takeBytes_split ‹_›
      exact ⟨_, _, rfl, rfl, hlen⟩
    · cases h
  · cases h

/-! ### Frames that decode -/

/-- A request was read off the front of the bytes: it is well formed, and the length the bytes tell was taken (R89). -/
def FrameRead (bytes : List Byte) (i : Instr) (rest : List Byte) : Prop :=
  i.wellFormed = true ∧ isRequest i = true ∧
    ∃ n, frameLength bytes = some n ∧ 0 < n ∧ n ≤ bytes.length ∧ rest = bytes.drop n

theorem FrameRead.of_append {frame rest : List Byte} {i : Instr} (hw : i.wellFormed = true) (hr : isRequest i = true)
    (hn : frameLength (frame ++ rest) = some frame.length) (hpos : frame ≠ []) : FrameRead (frame ++ rest) i rest :=
  ⟨hw, hr, frame.length, hn, List.length_pos_iff.mpr hpos, by simp, by simp⟩

/-- The requests whose frame is one byte. -/
theorem FrameRead.single {op : Byte} {rest : List Byte} {i : Instr} (hw : i.wellFormed = true)
    (hr : isRequest i = true) (hn : frameLength (op :: rest) = some 1) : FrameRead (op :: rest) i rest :=
  .of_append (frame := [op]) hw hr hn (by simp)

theorem frameLength_illegal {op : Byte} (rest : List Byte) (h : 0x13 ≤ op.toNat) :
    frameLength (op :: rest) = some 1 := by
  unfold frameLength
  dsimp only
  split
  case h_8 => rfl
  all_goals omega

theorem decodeFrame_illegal {op : Byte} (rest : List Byte) (h : 0x13 ≤ op.toNat) :
    decodeFrame (op :: rest) = .ok (.illegalRequest op, rest) := by
  unfold decodeFrame
  dsimp only
  split
  case h_20 => rfl
  all_goals omega

/-- Whatever decodes is a request frame read off the front. -/
theorem decodeFrame_ok {bytes rest : List Byte} {i : Instr} (h : decodeFrame bytes = .ok (i, rest)) :
    FrameRead bytes i rest := by
  cases bytes with
  | nil => cases h
  | cons op r =>
    unfold decodeFrame at h
    dsimp only at h
    split at h
    case h_1 hop => -- INIT
      split at h
      · cases h
        exact .of_append (frame := [op, _, _, _, _, _]) rfl rfl (by simp [frameLength, hop]) (by simp)
      · cases h
    case h_4 hop => -- SET_CURSOR
      split at h
      · cases h
        exact .of_append (frame := [op, _, _]) rfl rfl (by simp [frameLength, hop]) (by simp)
      · cases h
    case h_5 hop => -- PRINT
      obtain ⟨nl, nh, data, rfl, rfl, hlen⟩ := decodePrint_ok h
      have hlt := (halfWordOf nl nh).isLt
      exact .of_append (frame := op :: nl :: nh :: data) (by simp [Instr.wellFormed, payloadFits]; omega) rfl
        (by simp [frameLength, hop]; omega) (by simp)
    case h_6 hop => -- SHOW_TEXT
      obtain ⟨ss, nl, nh, text, rfl, rfl, hlen⟩ := decodeShowText_ok h
      have hlt := (halfWordOf nl nh).isLt
      exact .of_append (frame := op :: ss :: nl :: nh :: text) (by simp [Instr.wellFormed, payloadFits]; omega) rfl
        (by simp [frameLength, hop]; omega) (by simp)
    case h_7 hop => -- SET_BACKLIGHT
      split at h
      · cases h
        exact .of_append (frame := [op, _]) rfl rfl (by simp [frameLength, hop]) (by simp)
      · cases h
    case h_18 hop => -- UPLOAD_GLYPH
      obtain ⟨gg, bitmap, rfl, rfl, hlen⟩ := decodeUploadGlyph_ok h
      refine .of_append (frame := op :: gg :: bitmap) ?_ rfl ?_ (by simp)
      · rw [Instr.wellFormed, bitmapFits, hlen]
        split <;> rfl
      · simp only [frameLength, hop, List.cons_append, List.length_cons, hlen]
        split <;> rfl
    case h_19 hop => -- WRITE_BYTE
      split at h
      · cases h
        exact .of_append (frame := [op, _, _]) rfl rfl (by simp [frameLength, hop]) (by simp)
      · cases h
    case h_20 => -- an illegal opcode
      have hop : 0x13 ≤ op.toNat := by simp only [imp_false] at *; omega
      cases h
      exact .single (by simpa [Instr.wellFormed, opcodeIllegal] using hop) rfl (frameLength_illegal _ hop)
    all_goals -- the requests without operands
      rename_i hop
      cases h
      exact .single rfl rfl (by simp only [frameLength, hop])

/-- Settles O2, by the opcode. -/
theorem decodedFrameIsWellFormed : Obligations.DecodedFrameIsWellFormed := by
  unfold Obligations.DecodedFrameIsWellFormed
  exact fun _ _ _ h => decodeFrame_ok h

end Sys2Proof
end

section
/-! The code of a well-formed instruction, decoded in its own layer: the frame whatever follows it, the expander byte, the
controller word and the initialisation nibble. -/

namespace Sys2Proof

open Machine

/-! ### Frames with an option or flag byte, read (R73, R74) -/

theorem decodeFrame_init (rr cc al ah oo : Byte) (rest : List Byte) :
    decodeFrame (0x00 :: rr :: cc :: al :: ah :: oo :: rest) =
      .ok (.init rr cc (halfWordOf al ah) (oo.getLsbD 0) (oo.getLsbD 1) (oo.getLsbD 2), rest) := rfl

theorem decodeFrame_setBacklight (ff : Byte) (rest : List Byte) :
    decodeFrame (0x06 :: ff :: rest) = .ok (.setBacklight (ff.getLsbD 0), rest) := rfl

theorem decodeFrame_showText (rest : List Byte) : decodeFrame (0x05 :: rest) = decodeShowText rest := rfl

theorem decodeFrame_writeByte (ff vv : Byte) (rest : List Byte) :
    decodeFrame (0x12 :: ff :: vv :: rest) = .ok (.writeByte (ff.getLsbD 0) vv, rest) := rfl

/-! ### Frames that are encoded (R73) -/

theorem takeBytes_length {n : Nat} {data : List Byte} (rest : List Byte) (h : data.length = n) :
    takeBytes n (data ++ rest) = .ok (data, rest) := h ▸ takeBytes_append data rest

theorem decodePrint_encoded {data : List Byte} (rest : List Byte) (h : payloadFits data = true) :
    decodePrint (lengthField data ++ data ++ rest) = .ok (.print data, rest) := by
  have hn := lengthField_toNat data (by simpa [payloadFits] using h)
  simp only [decodePrint, lengthField, List.cons_append, List.nil_append, takeBytes_length rest hn.symm]

theorem decodeShowText_encoded (sel : BitVec 4) (ell pad : Bool) {text : List Byte} (rest : List Byte)
    (h : payloadFits text = true) :
    decodeShowText (textSelector sel ell pad :: lengthField text ++ text ++ rest) =
      .ok (.showText sel ell pad text, rest) := by
  have hn := lengthField_toNat text (by simpa [payloadFits] using h)
  simp only [decodeShowText, lengthField, List.cons_append, List.nil_append, takeBytes_length rest hn.symm,
    textSelector_rows, textSelector_ellipsis, textSelector_pad]

/-- The size bit tells how many bytes the bitmap has (R73). -/
theorem bitmapFits_length {bitmap : List Byte} (h : bitmapFits bitmap = true) :
    bitmap.length = if bitmap.length == 11 then 11 else 8 := by
  simp only [bitmapFits, Bool.or_eq_true, beq_iff_eq] at h
  rcases h with h | h <;> simp [h]

theorem decodeUploadGlyph_encoded (slot : BitVec 7) {bitmap : List Byte} (rest : List Byte)
    (h : bitmapFits bitmap = true) :
    decodeUploadGlyph ((BitVec.ofBool (bitmap.length == 11) ++ slot) :: bitmap ++ rest) =
      .ok (.uploadGlyph slot bitmap, rest) := by
  simp only [decodeUploadGlyph, List.cons_append, slotByte_long, slotByte_slot,
    takeBytes_length rest (bitmapFits_length h)]

/-- The frame of a well-formed request, decoded with any bytes after it. -/
theorem decodeFrame_encode {i : Instr} {bytes : List Byte} (rest : List Byte) (hw : i.wellFormed = true)
    (he : encode i = .frame bytes) : decodeFrame (bytes ++ rest) = .ok (i, rest) := by
  cases i with
  | print data => cases he; exact decodePrint_encoded rest hw
  | showText sel ell pad text => cases he; exact decodeShowText_encoded sel ell pad rest hw
  | uploadGlyph slot bitmap => cases he; exact decodeUploadGlyph_encoded slot rest hw
  | illegalRequest opcode =>
    cases he
    exact decodeFrame_illegal rest (by simpa [Instr.wellFormed, opcodeIllegal] using hw)
  | init rows cols addr clamp font backlight =>
    cases he
    simp only [List.cons_append, List.nil_append, decodeFrame_init, halfWordOf_bytes, initOptions_clamp,
      initOptions_font, initOptions_backlight]
  | setBacklight on =>
    cases he
    simp only [List.cons_append, List.nil_append, decodeFrame_setBacklight, bitByte_bit]
  | writeByte isData value =>
    cases he
    simp only [List.cons_append, List.nil_append, decodeFrame_writeByte, bitByte_bit]
  | clear | home | setCursor _ _ | cursorOn | cursorOff | blinkOn | blinkOff | displayOn | displayOff | leftToRight
  | rightToLeft | autoscroll | noAutoscroll => cases he; rfl
  | _ => cases he

/-- The frame alone leaves nothing. -/
theorem decodeFrame_encode_alone {i : Instr} {bytes : List Byte} (hw : i.wellFormed = true)
    (he : encode i = .frame bytes) : decodeFrame bytes = .ok (i, []) := by
  simpa using decodeFrame_encode [] hw he

/-- Settles O3. -/
theorem frameLeavesFollowingBytes : Obligations.FrameLeavesFollowingBytes := by
  unfold Obligations.FrameLeavesFollowingBytes
  exact fun _ _ rest hw he => decodeFrame_encode rest hw he

/-- Such a frame has the length R89 tells. -/
theorem frameLength_encode {i : Instr} {bytes : List Byte} (hw : i.wellFormed = true) (he : encode i = .frame bytes) :
    frameLength bytes = some bytes.length := by
  obtain ⟨-, -, n, hn, -, hle, hdrop⟩ := decodeFrame_ok (decodeFrame_encode_alone hw he)
  rw [hn, Nat.le_antisymm hle (List.drop_eq_nil_iff.mp hdrop.symm)]

/-- A proper beginning of a frame decodes to nothing (R76): what decodes has its whole length. -/
theorem decodeFrame_of_proper_prefix {i : Instr} {bytes front : List Byte} (hw : i.wellFormed = true)
    (he : encode i = .frame bytes) (hp : front <+: bytes) (hne : front ≠ bytes) :
    ∃ err, decodeFrame front = .error err := by
  cases hd : decodeFrame front with
  | error err => exact ⟨err, rfl⟩
  | ok r =>
    obtain ⟨-, -, n, hn, -, hle, -⟩ := decodeFrame_ok hd
    have ⟨back, hback⟩ := hp
    have hlen : frameLength bytes = some n := hback ▸ frameLength_append back hn
    have hn' : n = bytes.length := Option.some.inj (hlen.symm.trans (frameLength_encode hw he))
    exact absurd (hp.eq_of_length_le (hn' ▸ hle)) hne

/-- Settles O4: the step finds no frame. -/
theorem incompleteFrameWaits : Obligations.IncompleteFrameWaits := by
  unfold Obligations.IncompleteFrameWaits
  intro s i bytes hw he hs ha hp hne
  obtain ⟨err, hd⟩ := decodeFrame_of_proper_prefix hw he hp hne
  exact step_wait hs ha hd

/-! ### Reserved bits (R74, R84) -/

theorem decodeShowText_selector {ss ss' : Byte} (r : List Byte) (h : ss &&& 0x3F = ss' &&& 0x3F) :
    decodeShowText (ss :: r) = decodeShowText (ss' :: r) := by
  have hrows : ss.extractLsb' 0 4 = ss'.extractLsb' 0 4 := extractLsb'_eq_of_and_eq h (by decide)
  have hell := getLsbD_eq_of_and_eq h (k := 4) rfl
  have hpad := getLsbD_eq_of_and_eq h (k := 5) rfl
  rcases r with _ | ⟨nl, _ | ⟨nh, r⟩⟩
  · rfl
  · rfl
  · simp only [decodeShowText, hrows, hell, hpad]

theorem cgAddr_eq (slot : BitVec 7) : cgAddr slot = BitVec.zeroExtend 8 (slot &&& 0x07) <<< 3 := by
  revert slot; decide

/-- The block reads the slot's low three bits only (R84). -/
theorem execUploadGlyph_slot {slot slot' : BitVec 7} (bitmap : List Byte) (s : State)
    (h : slot &&& 0x07 = slot' &&& 0x07) : execUploadGlyph slot bitmap s = execUploadGlyph slot' bitmap s := by
  have hlow : slot.extractLsb' 0 3 = slot'.extractLsb' 0 3 := extractLsb'_eq_of_and_eq h (by decide)
  simp only [execUploadGlyph, glyphEnding, cgAddr_eq, h, hlow]

/-- Settles O5, one clause per reserved field. -/
theorem reservedBitsAreIgnored : Obligations.ReservedBitsAreIgnored := by
  unfold Obligations.ReservedBitsAreIgnored
  refine ⟨fun rr cc al ah oo oo' r h => ?_, fun ss ss' r h => ?_, fun ff ff' r h => ?_, fun ff ff' r h => ?_,
    fun slot slot' bitmap s h => execUploadGlyph_slot bitmap s h⟩
  · simp only [decodeFrame_init, getLsbD_eq_of_and_eq h (k := 0) rfl, getLsbD_eq_of_and_eq h (k := 1) rfl,
      getLsbD_eq_of_and_eq h (k := 2) rfl]
  · simp only [decodeFrame_showText, decodeShowText_selector r h]
  · simp only [decodeFrame_setBacklight, getLsbD_eq_of_and_eq h (k := 0) rfl]
  · cases r with
    | nil => rfl
    | cons vv r => simp only [decodeFrame_writeByte, getLsbD_eq_of_and_eq h (k := 0) rfl]

/-! ### The other three layers -/

theorem decodeWire_wireBits (d : Nibble) (bl e rs : Bool) :
    decodeWire (wireBits d bl e rs) = .ok (if e then .wireEHigh d bl rs else .wireELow d bl rs) := by
  simp only [decodeWire, wireBits_readWrite, wireBits_strobe, wireBits_nibble, wireBits_backlight,
    wireBits_registerSelect, Bool.false_eq_true, if_false]
  cases e <;> rfl

/-- The word of a CMD instruction is the code it is encoded to, and no other instruction has a word. -/
theorem encode_word {i : Instr} {w : CtrlWord} (h : encode i = .word w) : isCommand i = true ∧ wordOf i = w := by
  refine ⟨?_, by simp only [wordOf, h]⟩
  cases i with
  | clearDisplay | returnHome _ | entryModeSet _ _ | displayControl _ _ _ | functionSet _ _ _ _ | setCgramAddr _
  | setDdramAddr _ | cursorDisplayShift _ _ _ | noCommand00 | writeData _ => rfl
  | _ => cases h

/-- The round trip, layer by layer (R70). -/
theorem decode_encode {i : Instr} (hw : i.wellFormed = true) : decode (encode i) = .ok i := by
  cases he : encode i with
  | frame bytes =>
    simp only [decode, decodeFrame_encode_alone hw he]
  | wire b =>
    cases i with
    | wireELow d bl rs | wireEHigh d bl rs => cases he; exact decodeWire_wireBits ..
    | _ => cases he
  | word w =>
    obtain ⟨hc, rfl⟩ := encode_word he
    simp only [decode, decodeWord_wordOf hc]
  | nibble v =>
    cases i with
    | initNibble8bit | initNibble4bit => cases he; rfl
    | _ => cases he

/-- Settles O1. -/
theorem decodeOfEncodeIsIdentity : Obligations.DecodeOfEncodeIsIdentity := by
  unfold Obligations.DecodeOfEncodeIsIdentity
  exact fun _ hw => decode_encode hw

/-- Settles O6: over the 512 words. -/
theorem controllerWordHasOneClass : Obligations.ControllerWordHasOneClass := by
  unfold Obligations.ControllerWordHasOneClass
  decide +kernel

/-- Settles O7: each code is run through the decoder. -/
theorem sampleCodesDecode : Obligations.SampleCodesDecode := by
  unfold Obligations.SampleCodesDecode
  decide

end Sys2Proof
end

section
/-! What six expander bytes of a `BYTE` deliver to a controller in step (R103, R113, R115). -/

namespace Sys2Proof.Machine

/-- The three bytes of a nibble, from E low, latch it once. -/
theorem observeAll_nibBytes (bl : Bool) (n : Byte) (rs : Bool) {l : Lcd} (hE : l.obs.prevE = false) :
    observeAll (nibBytes bl n rs) l = lcdLatch (n.extractLsb' 4 4) rs l := by
  simp only [nibBytes, observeAll_cons, observeAll_nil]
  rw [lcdObserve_strobe _ _ _ (wireByte_strobe ..) (wireByte_strobe ..) hE, wireByte_nibble,
    wireByte_registerSelect, ← lcdLatch_prevE, ← hE]

/-- A high nibble is held (R113). -/
def holdNibble (n : Nibble) (rs : Bool) (l : Lcd) : Lcd :=
  { l with obs := { l.obs with hiNib := n, hiRs := rs, phase := .low } }

theorem lcdLatch_first {n : Nibble} {rs : Bool} {l : Lcd} (hm : l.obs.mode = .four) (hp : l.obs.phase = .high) :
    lcdLatch n rs l = holdNibble n rs l := by
  simp only [lcdLatch, lcdLatchFour, hm, hp, holdNibble]

theorem lcdLatch_second {hi lo : Nibble} {rs : Bool} {l : Lcd} (hm : l.obs.mode = .four) :
    lcdLatch lo rs (holdNibble hi rs l) =
      lcdDeliver (BitVec.ofBool rs ++ hi ++ lo) false l.panel.framed
        { l with obs := { l.obs with hiNib := hi, hiRs := rs, phase := .high } } := by
  simp only [lcdLatch, lcdLatchFour, holdNibble, hm, bne_self_eq_false, Bool.not_false, Bool.and_true]

/-- The two nibbles of a byte make its word (R85, R113). -/
theorem ctrlWord_nibbles (rs : Bool) (v : Byte) :
    BitVec.ofBool rs ++ (v &&& 0xF0).extractLsb' 4 4 ++ ((v <<< 4) &&& 0xF0).extractLsb' 4 4 = ctrlWord rs v := by
  revert rs v; decide

/-- A byte to a controller in step delivers its word, whole and untorn; its high nibble stays in the latch. -/
theorem observeAll_byteBytes (bl : Bool) (v : Byte) (rs : Bool) {l : Lcd} (h : InStep l) :
    observeAll (byteBytes bl v rs) l =
      lcdDeliver (ctrlWord rs v) false l.panel.framed
        { l with obs := { l.obs with hiNib := (v &&& 0xF0).extractLsb' 4 4, hiRs := rs } } := by
  obtain ⟨hm, hp, hE⟩ := h
  rw [byteBytes, observeAll_append, observeAll_nibBytes bl _ rs hE, lcdLatch_first hm hp,
    observeAll_nibBytes (l := holdNibble _ rs l) bl _ rs hE, lcdLatch_second hm,
    ctrlWord_nibbles, ← hp]

/-- WRITE_BYTE with every Tx answered Ok (R146). -/
theorem exec_writeByte_ok (isData : Bool) (v : Byte) {s : State} {rest : List Answer} (ha : Accepts s)
    (hok : AnswersOk 6 rest s) :
    exec (.writeByte isData v) s = .next (sentOk s (byteEvents s v isData) rest) := by
  have hx : exec (.writeByte isData v) s = execWriteByte isData v s := rfl
  rw [hx, execWriteByte, acceptReady_ready _ _ ha]
  exact congrArg _ (perform_sentOk (byteOps s.timing v isData) s rest hok ha.1)

/-- The bytes of a byte's transactions. -/
theorem sentBytes_byteEvents (s : State) (v : Byte) (rs : Bool) :
    sentBytes (byteEvents s v rs) = byteBytes s.bl v rs := rfl

end Sys2Proof.Machine
end

section
/-! The words no request but WRITE_BYTE emits (R86), and a controller out of step (R146): nothing is known of the
memories afterwards. -/

namespace Sys2Proof.Machine

/-- Nothing is known of either memory. -/
def MemoriesUnknown (p : Panel) : Prop := p.ddram = [] ∧ p.cgram = []

theorem MemoriesUnknown.read {p : Panel} (h : MemoriesUnknown p) (a : Nat) :
    Memory.read p.ddram a = none ∧ Memory.read p.cgram a = none := by
  rw [h.1, h.2]
  exact ⟨rfl, rfl⟩

/-- A request's end makes nothing known. -/
theorem MemoriesUnknown.ending {l : Lcd} (h : MemoriesUnknown l.panel) (e : Ending) :
    MemoriesUnknown (lcdEnding e l).panel := by
  refine ⟨(lcdEnding_ddram e l).trans h.1, ?_⟩
  rcases e with _ | _ | ⟨slot, _ | _⟩
  · exact h.2
  · exact h.2
  · exact h.2
  · exact congrArg (Memory.forget (isSpillCell slot)) h.2

/-! ### The words R86 lists -/

/-- The CMD instructions no request but WRITE_BYTE emits (R86): of FUNCTION_SET, every form INIT does not send. -/
def isUnemitted : Instr → Bool
  | .noCommand00 | .cursorDisplayShift _ _ _ => true
  | .returnHome x => x
  | .functionSet dl n f x => dl || decide (x ≠ 0) || (n && f)
  | _ => false

/-- The command bytes of R86's list. -/
abbrev IsUnemittedByte (v : Byte) : Prop :=
  v = 0x00 ∨ v = 0x03 ∨ (0x10 ≤ v.toNat ∧ v.toNat ≤ 0x1F) ∨
    (0x20 ≤ v.toNat ∧ v.toNat ≤ 0x3F ∧ v ≠ 0x20 ∧ v ≠ 0x24 ∧ v ≠ 0x28)

theorem isUnemitted_decodeWord :
    ∀ v, IsUnemittedByte v → isUnemitted (decodeWord (ctrlWord false v)) = true := by decide

/-- Those from 0x30 on ask for an 8-bit interface. -/
theorem decodeWord_eightBit :
    ∀ v : Byte, IsUnemittedByte v → 0x30 ≤ v.toNat →
      decodeWord (ctrlWord false v) = .functionSet true (v.getLsbD 3) (v.getLsbD 2) (v.extractLsb' 0 2) := by decide

/-- FUNCTION_SET in a form INIT does not send has any value as its effect (U13), unless INIT's own strobes made it. -/
theorem panelFunction_unemitted {dl n f : Bool} {x : BitVec 2} {p : Panel}
    (h : isUnemitted (.functionSet dl n f x) = true) (hr : p.resync = false) :
    MemoriesUnknown (panelFunction dl n f x p) := by
  unfold panelFunction
  cases dl with
  | true =>
    rw [if_pos rfl, hr]
    exact ⟨rfl, rfl⟩
  | false =>
    have hx : x ≠ 0 ∨ (n && f) = true := by simpa [isUnemitted] using h
    rw [if_neg (by simp), if_pos hx]
    exact ⟨rfl, rfl⟩

/-- Such a word leaves nothing known of the memories, trusted or not. -/
theorem lcdDeliver_unemitted {w : CtrlWord} (torn trusted : Bool) {l : Lcd} (hw : isUnemitted (decodeWord w) = true)
    (hr : l.panel.resync = false) : MemoriesUnknown (lcdDeliver w torn trusted l).panel := by
  cases trusted with
  | false => exact lcdDeliver_untrusted w torn l
  | true =>
    unfold lcdDeliver
    split
    case h_2 x hd =>
      obtain rfl : x = true := by simpa [hd, isUnemitted] using hw
      exact ⟨rfl, rfl⟩
    case h_5 dl n f x hd => exact panelFunction_unemitted (hd ▸ hw) hr
    case h_8 | h_9 => exact ⟨rfl, rfl⟩
    all_goals
      rename_i hd
      simp [hd, isUnemitted] at hw

/-- A FUNCTION_SET with DL = 1 outside INIT makes the interface 8-bit and puts the controller out of step (R146). -/
theorem lcdDeliver_eightBit {w : CtrlWord} {n f : Bool} {x : BitVec 2} (hw : decodeWord w = .functionSet true n f x)
    (torn trusted : Bool) {l : Lcd} (hr : l.panel.resync = false) :
    (lcdDeliver w torn trusted l).obs.mode = .eight ∧ (lcdDeliver w torn trusted l).panel.framed = false := by
  unfold lcdDeliver
  rw [hw]
  refine ⟨rfl, ?_⟩
  cases trusted <;> simp [lcdFunctionSet, lcdApply, panelAny, panelFunction_framed, hr]

/-! ### A controller out of step (R146) -/

/-- The controller is out of step while no INIT runs, and whatever was delivered to it since `old` left nothing known of
the memories. -/
structure Misframed (old l : Lcd) : Prop where
  framed : l.panel.framed = false
  resync : l.panel.resync = false
  delivered : l.obs.words = old.obs.words ∨ MemoriesUnknown l.panel

theorem Misframed.observe {old l : Lcd} (h : Misframed old l) (b : Byte) : Misframed old (lcdObserve b l) := by
  obtain ⟨hf, ⟨hwords, hpanel⟩ | hun⟩ := lcdObserve_unframed b l h.framed h.resync
  · refine ⟨hf, hpanel ▸ h.resync, ?_⟩
    rw [hwords, hpanel]
    exact h.delivered
  · exact ⟨hf, by rw [lcdObserve_resync, h.resync], .inr hun⟩

theorem Misframed.issue {old : Lcd} (op : Op) (s : State) (h : Misframed old s.lcd) :
    Misframed old (issue op s).state.lcd := by
  cases op with
  | delay t => exact h
  | tx n rs e =>
    simp only [Machine.issue, transmit, consumeAnswer_eq]
    rcases nextAnswer s with _ | ⟨info, _ | _⟩
    · exact h.observe _
    · exact h
    · exact h.observe _

theorem Misframed.abort {old l : Lcd} (h : Misframed old l) : Misframed old (lcdResyncEnd (lcdAbort l)) := by
  unfold lcdAbort
  split
  · exact ⟨rfl, rfl, .inr ⟨rfl, rfl⟩⟩
  · exact ⟨h.framed, rfl, h.delivered⟩

theorem Misframed.ending {old l : Lcd} (h : Misframed old l) (e : Ending) : Misframed old (lcdEnding e l) := by
  refine ⟨(lcdEnding_framed e l).trans h.framed, ?_, ?_⟩
  · by_contra hr
    cases h.resync.symm.trans (lcdEnding_resync (by simpa using hr)).1
  · rw [lcdEnding_obs]
    exact h.delivered.imp_right fun hun => hun.ending e

theorem Misframed.perform {old : Lcd} {s : State} (h : Misframed old s.lcd) (e : Ending) (ops : List Op) :
    Misframed old (perform e ops s).lcd := by
  have hrun := runOps_induction (P := fun t => Misframed old t.lcd) Misframed.issue ops (s := startSeq e ops s) h
  unfold Machine.perform
  cases hr : runOps ops (startSeq e ops s) with
  | going t => rw [hr] at hrun; exact hrun.ending e
  | failed info t => rw [hr] at hrun; exact hrun.abort.ending e

theorem RequestRuns.lcd_eq {s t : State} {i : Instr} {e : Ending} {ops : List Op} (h : RequestRuns s i e ops t)
    (hi : isInit i = false) : t.lcd = s.lcd := by
  cases h with
  | init _ => cases hi
  | display _ _ _ _ _ | entry _ _ _ _ _ | backlight | glyph | sends _ => rfl

/-- No request but INIT brings the controller into step. -/
theorem exec_misframed {i : Instr} {s t : State} (hi : isRequest i = true) (hn : isInit i = false) (hL : Lawful s)
    (hf : s.lcd.panel.framed = false) (hx : exec i s = .next t) : Misframed s.lcd t.lcd := by
  obtain ⟨hs, hmove⟩ := exec_request_moves hi hx
  have hstart : Misframed s.lcd s.lcd := ⟨hf, hL.resync_idle hs, .inl rfl⟩
  rcases hmove with ⟨r, rfl⟩ | ⟨e, ops, s1, hr, rfl⟩
  · exact hstart
  · exact Misframed.perform (hr.lcd_eq hn ▸ hstart) e ops

/-! ### The obligation, clause by clause -/

/-- A word R86 lists, sent by WRITE_BYTE to a controller in step. -/
theorem exec_writeByte_unemitted {v : Byte} {s : State} {rest : List Answer} (hL : Lawful s) (ha : Accepts s)
    (hok : AnswersOk 6 rest s) (hstep : InStep s.lcd) (hv : IsUnemittedByte v) :
    ∃ t, exec (.writeByte false v) s = .next t ∧ t.result = some .ok ∧
      t.lcd.obs.words = s.lcd.obs.words ++ [.full (ctrlWord false v) false] ∧
      (0x30 ≤ v.toNat → t.lcd.obs.mode = .eight ∧ t.lcd.panel.framed = false) ∧ MemoriesUnknown t.lcd.panel := by
  have hr := hL.resync_idle ha.1
  refine ⟨_, exec_writeByte_ok false v ha hok, rfl, ?_⟩
  rw [sentOk_lcd, sentBytes_byteEvents, observeAll_byteBytes _ _ _ hstep]
  exact ⟨lcdDeliver_words .., fun h30 => lcdDeliver_eightBit (decodeWord_eightBit v hv h30) _ _ hr,
    lcdDeliver_unemitted _ _ (isUnemitted_decodeWord v hv) hr⟩

/-- Settles O54: the two words as instructions, any word of R86's list through WRITE_BYTE, and then every request but
INIT on a controller out of step. -/
theorem unemittedWordsHaveAnyEffect : Obligations.UnemittedWordsHaveAnyEffect := by
  unfold Obligations.UnemittedWordsHaveAnyEffect
  intro sc rl x s
  refine ⟨?_, ?_, fun v rest hL ha hok hstep hv => ?_, fun i t hi hn hL hf hx => ?_⟩
  · exact ⟨_, rfl, rfl, ⟨_, rfl, decodeWord_wordOf (i := .cursorDisplayShift sc rl x) rfl⟩, fun _ => ⟨rfl, rfl⟩⟩
  · exact ⟨_, rfl, rfl, rfl, fun _ => ⟨rfl, rfl⟩⟩
  · obtain ⟨t, hx, hok', hwords, hmode, hun⟩ := exec_writeByte_unemitted hL ha hok hstep hv
    exact ⟨t, hx, hok', hwords, hmode, hun.read⟩
  · obtain ⟨hf', -, hdel⟩ := exec_misframed hi hn hL hf hx
    exact ⟨hf', fun hne a => (hdel.resolve_left hne).read a⟩

end Sys2Proof.Machine
end

section
/-! One micro-op under each answer of the transport (R100, R101), a list of them that completed whatever the answers
were, and one whose Tx fails (R107). -/

namespace Sys2Proof.Machine

/-- Settles O23: the three answers to a Tx, and a Delay. -/
theorem microOpEffects : Obligations.MicroOpEffects := by
  unfold Obligations.MicroOpEffects
  exact ⟨fun _ _ _ s rest h => transmit_ok _ s rest h, fun _ _ _ s info rest h => transmit_err _ s info false rest h,
    fun _ _ _ s info rest h => transmit_err _ s info true rest h, fun _ _ => rfl⟩

/-! ### A list whose Tx fails -/

/-- Where the list of answers reaches the one that fails, none is drawn. -/
theorem runOps_fails_draws (ops : List Op) (s : State) (k : Nat) (info : BusErrorInfo) (took : Bool)
    (rest : List Answer) (hk : k < opTxCount ops) (h : s.answers = List.replicate k .ok ++ .err info took :: rest) :
    (runOps ops s).state.draws = s.draws := by
  induction ops generalizing s k with
  | nil => simp [opTxCount] at hk
  | cons op ops ih =>
    cases op with
    | delay t => exact ih _ k hk h
    | tx n rs e =>
      cases k with
      | zero =>
        simp only [runOps, issue, transmit_err _ s info took rest h]
        cases took <;> rfl
      | succ k =>
        simp only [runOps, issue, transmit_ok _ s _ h]
        exact ih _ k (Nat.lt_of_succ_lt_succ hk) rfl

/-- Settles O21: the micro-ops up to the failed Tx write no register, and the request's end restores none. -/
theorem failedTransactionEndsRequest : Obligations.FailedTransactionEndsRequest := by
  unfold Obligations.FailedTransactionEndsRequest
  intro e ops s k info took rest hk ht h
  obtain ⟨t, hrun, hwire, hanswers, htrace⟩ := runOps_fails ops (startSeq e ops s) k info took rest hk h
  have hdraws := runOps_fails_draws ops (startSeq e ops s) k info took rest hk h
  rw [hrun] at hdraws
  refine ⟨t.expLatch, lcdEnding e (lcdResyncEnd (lcdAbort t.lcd)), ?_⟩
  rw [perform, hrun]
  refine (congrArg (fun u : State => endRequest (.busError info) { u with
    lcd := lcdEnding e (lcdResyncEnd (lcdAbort t.lcd)) }) hwire).trans ?_
  rw [hanswers, htrace, show t.draws = s.draws from hdraws, startSeq_trace, ht]
  rfl

/-! ### A list that completes -/

/-- A Tx that completes was answered Ok. -/
theorem transmit_going {b : Byte} {s t : State} (h : transmit b s = .going t) :
    t = reach b { consumeAnswer s with trace := s.trace ++ [.tx s.devAddr b .ok] } := by
  unfold transmit at h
  cases ha : nextAnswer s with
  | ok => rw [ha] at h; cases h; rfl
  | err info took => rw [ha] at h; cases h

/-- Micro-ops that complete: every event is that of a Tx answered Ok, and every byte reached the port. -/
theorem runOps_going {ops : List Op} {s t : State} (h : runOps ops s = .going t) :
    t.trace = s.trace ++ opEvents s.devAddr s.bl ops ∧
      t.expLatch = (sentBytes (opEvents s.devAddr s.bl ops)).getLastD s.expLatch ∧
      t.lcd = observeAll (sentBytes (opEvents s.devAddr s.bl ops)) s.lcd := by
  induction ops generalizing s with
  | nil => cases h; simp [opEvents, sentBytes]
  | cons op ops ih =>
    cases op with
    | delay d =>
      obtain ⟨htrace, hlatch, hlcd⟩ := ih (s := { s with trace := s.trace ++ [.delay d] }) h
      exact ⟨by simp [htrace, opEvents], hlatch, hlcd⟩
    | tx n rs e =>
      simp only [runOps, issue] at h
      cases hx : transmit (wireByte s.bl n rs e) s with
      | failed info s' => rw [hx] at h; cases h
      | going s' =>
        rw [hx] at h
        obtain rfl := transmit_going hx
        obtain ⟨htrace, hlatch, hlcd⟩ := ih h
        simp [htrace, hlatch, hlcd, opEvents, sentBytes, List.getLast?_cons]

/-- A request that answered OK, whatever the transport's answers were drawn from. -/
theorem perform_of_ok {e : Ending} {ops : List Op} {s : State} (h : (perform e ops s).result = some .ok) :
    (perform e ops s).trace = s.trace ++ opEvents s.devAddr s.bl ops ∧
      (perform e ops s).expLatch = (sentBytes (opEvents s.devAddr s.bl ops)).getLastD s.expLatch ∧
      (perform e ops s).lcd = lcdEnding e (observeAll (sentBytes (opEvents s.devAddr s.bl ops)) s.lcd) := by
  unfold perform at h ⊢
  cases hrun : runOps ops (startSeq e ops s) with
  | failed info t => rw [hrun] at h; cases h
  | going t =>
    obtain ⟨htrace, hlatch, hlcd⟩ := runOps_going hrun
    exact ⟨htrace, hlatch, congrArg (lcdEnding e) hlcd⟩

end Sys2Proof.Machine
end

section
/-! What the bytes of a byte transfer and of the initialisation strobes do to the observer (R108, R111 to R116). -/

namespace Sys2Proof.Machine

/-! ### A byte to a controller in step (R115) -/

/-- What the latch held before takes no part in the delivery of a whole word. -/
theorem lcdDeliver_setLatch (w : CtrlWord) (torn trusted : Bool) (hi : Nibble) (rs : Bool) (l : Lcd) :
    lcdDeliver w torn trusted { l with obs := { l.obs with hiNib := hi, hiRs := rs } } =
      { lcdDeliver w torn trusted l with
        obs := { (lcdDeliver w torn trusted l).obs with hiNib := hi, hiRs := rs } } := by
  unfold lcdDeliver
  split <;> rfl

/-- The interface width after a word: only FUNCTION_SET sets it (R113). -/
def modeAfter (i : Instr) (m : Mode) : Mode :=
  match i with
  | .functionSet dl _ _ _ => if dl then .eight else .four
  | _ => m

theorem lcdDeliver_modeAfter (w : CtrlWord) (torn trusted : Bool) (l : Lcd) :
    (lcdDeliver w torn trusted l).obs.mode = modeAfter (decodeWord w) l.obs.mode := by
  unfold lcdDeliver
  split <;> rename_i hd <;> rw [hd] <;> rfl

/-- FUNCTION_SET with DL = 1 is the one word that ends 4-bit mode (R80, R113). -/
theorem modeAfter_ctrlWord (rs : Bool) (v : Byte) :
    modeAfter (decodeWord (ctrlWord rs v)) .four =
      if rs = false ∧ v.extractLsb' 5 3 = 1 ∧ v.getLsbD 4 = true then .eight else .four := by
  revert rs v; decide

/-- A backlight push to a controller whose E is low (R104). -/
theorem lcdObserve_blPush (bl : Bool) {l : Lcd} (hE : l.obs.prevE = false) :
    lcdObserve (wireByte bl 0x00 false false) l = l :=
  lcdObserve_low_low _ _ (wireByte_strobe ..) hE

/-- Settles O42: the six bytes are one delivery, whose fields are the word's. -/
theorem byteTransferDeliversItsWord : Obligations.ByteTransferDeliversItsWord := by
  unfold Obligations.ByteTransferDeliversItsWord
  intro bl v rs l h
  obtain ⟨hm, hp, hE⟩ := h
  obtain ⟨-, -, hE', hp'⟩ := lcdDeliver_latch (ctrlWord rs v) false l.panel.framed l
  refine ⟨?_, lcdObserve_blPush bl hE⟩
  dsimp only
  rw [observeAll_byteBytes bl v rs ⟨hm, hp, hE⟩, lcdDeliver_setLatch]
  refine ⟨lcdDeliver_words .., ?_, hp' hp, hE'.trans hE, rfl, rfl⟩
  exact (lcdDeliver_modeAfter ..).trans (hm ▸ modeAfter_ctrlWord rs v)

/-! ### A byte cut short (R108) -/

theorem highNibble_bits (v : Byte) : (v &&& 0xF0).extractLsb' 4 4 = v.extractLsb' 4 4 := by
  revert v; decide

/-- Settles O43: each byte after the first adds its E edge, and only the third byte's latches a nibble. -/
theorem partialByteFraming : Obligations.PartialByteFraming := by
  unfold Obligations.PartialByteFraming
  intro bl v rs l h
  obtain ⟨hm, hp, hE⟩ := h
  have h1 : lcdObserve (wireByte bl (v &&& 0xF0) rs false) l = l := lcdObserve_low_low _ _ (wireByte_strobe ..) hE
  have h2 : ∀ n l', lcdObserve (wireByte bl n rs true) l' = { l' with obs := { l'.obs with prevE := true } } :=
    fun n l' => lcdObserve_high _ l' (wireByte_strobe ..)
  have h3 : observeAll ((byteBytes bl v rs).take 3) l = holdNibble (v.extractLsb' 4 4) rs l := by
    have ht : (byteBytes bl v rs).take 3 = nibBytes bl (v &&& 0xF0) rs := rfl
    rw [ht, observeAll_nibBytes bl _ rs hE, lcdLatch_first hm hp, highNibble_bits]
  have h4 : observeAll ((byteBytes bl v rs).take 4) l = holdNibble (v.extractLsb' 4 4) rs l := by
    have ht : (byteBytes bl v rs).take 4 =
      (byteBytes bl v rs).take 3 ++ [wireByte bl ((v <<< 4) &&& 0xF0) rs false] := rfl
    rw [ht, observeAll_append, h3]
    exact lcdObserve_low_low _ _ (wireByte_strobe ..) hE
  refine ⟨h1, ?_, h3, h4, ?_⟩
  · exact (congrArg (lcdObserve _) h1).trans (h2 _ l)
  · have ht : (byteBytes bl v rs).take 5 =
      (byteBytes bl v rs).take 4 ++ [wireByte bl ((v <<< 4) &&& 0xF0) rs true] := rfl
    rw [ht, observeAll_append, h4]
    exact h2 _ _

/-! ### The initialisation strobes (R116) -/

/-- The controller after command nibbles latched one after another. -/
def latchAll (ns : List Nibble) (l : Lcd) : Lcd := ns.foldl (fun l n => lcdLatch n false l) l

@[simp] theorem latchAll_prevE (ns : List Nibble) (l : Lcd) : (latchAll ns l).obs.prevE = l.obs.prevE := by
  induction ns generalizing l with
  | nil => rfl
  | cons n ns ih => exact (ih _).trans (lcdLatch_obs_prevE n false l)

/-- `k` nibbles 0x3 and then 0x2, as INIT strobes them. -/
abbrev initNibbles (k : Nat) : List Nibble := List.replicate k 0x3 ++ [0x2]

/-- E high before the first strobe makes its first byte latch the nibble once more (R111). -/
theorem observeAll_nibBytes_high (bl : Bool) (n : Byte) (rs : Bool) {l : Lcd} (hE : l.obs.prevE = true) :
    observeAll (nibBytes bl n rs) l =
      observeAll (nibBytes bl n rs) { lcdLatch (n.extractLsb' 4 4) rs l with
        obs := { (lcdLatch (n.extractLsb' 4 4) rs l).obs with prevE := false } } := by
  simp only [nibBytes, observeAll_cons]
  rw [lcdObserve_fall _ l (wireByte_strobe ..) hE, wireByte_nibble, wireByte_registerSelect]
  exact congrArg (fun l => observeAll [] (lcdObserve _ (lcdObserve _ l)))
    (lcdObserve_low_low _ _ (wireByte_strobe ..) rfl).symm

/-- The twelve bytes latch the four nibbles, and one 0x3 before them where E was high. -/
theorem observeAll_strobeBytes (bl : Bool) (l : Lcd) :
    observeAll (strobeBytes bl) l =
      latchAll (initNibbles (if l.obs.prevE then 4 else 3)) { l with obs := { l.obs with prevE := false } } := by
  have hlow : ∀ l : Lcd, l.obs.prevE = false → observeAll (strobeBytes bl) l = latchAll (initNibbles 3) l := by
    intro l hE
    simp only [strobeBytes, observeAll_append, observeAll_nibBytes, lcdLatch_obs_prevE, hE]
    rfl
  cases hE : l.obs.prevE with
  | false =>
    have hl : { l with obs := { l.obs with prevE := false } } = l := by rw [← hE]
    rw [hl]
    exact hlow l hE
  | true =>
    have hfirst : observeAll (strobeBytes bl) l = observeAll (strobeBytes bl)
        { lcdLatch 0x3 false l with obs := { (lcdLatch 0x3 false l).obs with prevE := false } } := by
      simp only [strobeBytes, observeAll_append]
      rw [observeAll_nibBytes_high bl 0x30 false hE]
      rfl
    rw [hfirst, hlow _ rfl, ← lcdLatch_prevE]
    rfl

/-- `k` nibbles 0x3 and then 0x2 deliver `ws` and end in 4-bit mode with no nibble held. -/
def Resyncs (k : Nat) (l : Lcd) (ws : List Delivered) : Prop :=
  (latchAll (initNibbles k) l).obs.mode = .four ∧ (latchAll (initNibbles k) l).obs.phase = .high ∧
    (latchAll (initNibbles k) l).obs.words = l.obs.words ++ ws

theorem Resyncs.latch {k : Nat} {l : Lcd} {w ws : List Delivered}
    (hw : (lcdLatch 0x3 false l).obs.words = l.obs.words ++ w) (h : Resyncs k (lcdLatch 0x3 false l) ws) :
    Resyncs (k + 1) l (w ++ ws) := by
  obtain ⟨hm, hp, hws⟩ := h
  refine ⟨hm, hp, ?_⟩
  rw [← List.append_assoc, ← hw]
  exact hws

/-- An 8-bit interface takes each nibble as a word, and the last one makes it 4-bit (R112). -/
theorem Resyncs.eight (k : Nat) {l : Lcd} (hm : l.obs.mode = .eight) :
    Resyncs k l (List.replicate k (.eightBit false 0x3) ++ [.eightBit false 0x2]) := by
  induction k generalizing l with
  | zero =>
    have hx : latchAll (initNibbles 0) l = lcdLatchEight 0x2 false l := by
      simp [latchAll, lcdLatch, hm]
    unfold Resyncs
    rw [hx]
    exact ⟨rfl, rfl, rfl⟩
  | succ k ih =>
    have hx : lcdLatch 0x3 false l = lcdLatchEight 0x3 false l := by simp only [lcdLatch, hm]
    exact .latch (w := [.eightBit false 0x3]) (by rw [hx]; rfl) (ih (l := lcdLatch 0x3 false l) (by rw [hx]; rfl))

/-- A held nibble and 0x3 make a word (R113). -/
theorem lcdLatch_low {n : Nibble} {rs : Bool} {l : Lcd} (hm : l.obs.mode = .four) (hp : l.obs.phase = .low) :
    lcdLatch n rs l =
      lcdDeliver (BitVec.ofBool rs ++ l.obs.hiNib ++ n) (l.obs.hiRs != rs) (l.panel.framed && !(l.obs.hiRs != rs))
        { l with obs := { l.obs with phase := .high } } := by
  simp only [lcdLatch, lcdLatchFour, hm, hp]

/-- The garbage word of the first strobe asks for an 8-bit interface exactly where the held nibble is 0x3
(notes/assumptions/31.md). -/
theorem modeAfter_garbage (h : Nibble) :
    modeAfter (decodeWord (BitVec.ofBool false ++ h ++ (0x3 : Nibble))) .four = if h = 0x3 then .eight else .four := by
  revert h; decide

/-- The second half of a word whose second nibble is 0x3. -/
theorem lcdLatch_three_low {l : Lcd} (hm : l.obs.mode = .four) (hp : l.obs.phase = .low) :
    (lcdLatch 0x3 false l).obs.mode = (if l.obs.hiNib = 0x3 then .eight else .four) ∧
      (lcdLatch 0x3 false l).obs.phase = .high ∧
      (lcdLatch 0x3 false l).obs.words = l.obs.words ++ [.full (0#1 ++ l.obs.hiNib ++ 0x3#4) l.obs.hiRs] := by
  rw [lcdLatch_low hm hp]
  refine ⟨?_, (lcdDeliver_latch ..).2.2.2 rfl, ?_⟩
  · rw [lcdDeliver_modeAfter, ← modeAfter_garbage, hm]
  · rw [lcdDeliver_words]
    simp

/-- A held 0x3 completes the word `0:33`, and the rest meet an 8-bit interface. -/
theorem Resyncs.low_three (k : Nat) {l : Lcd} (hm : l.obs.mode = .four) (hp : l.obs.phase = .low)
    (hn : l.obs.hiNib = 0x3) :
    Resyncs (k + 1) l (.full (0#1 ++ l.obs.hiNib ++ 0x3#4) l.obs.hiRs ::
      (List.replicate k (.eightBit false 0x3) ++ [.eightBit false 0x2])) := by
  obtain ⟨hm', -, hw⟩ := lcdLatch_three_low hm hp
  exact .latch hw (.eight k (by rw [hm', if_pos hn]))

/-- With no nibble held, two strobes make the word `0:33`. -/
theorem Resyncs.high (k : Nat) {l : Lcd} (hm : l.obs.mode = .four) (hp : l.obs.phase = .high) :
    Resyncs (k + 2) l
      (.full 0x033 false :: (List.replicate k (.eightBit false 0x3) ++ [.eightBit false 0x2])) := by
  have hheld := lcdLatch_first (n := 0x3) (rs := false) hm hp
  refine .latch (w := []) (by rw [hheld]; simp [holdNibble]) ?_
  have hword : (0x033 : CtrlWord) = 0#1 ++ 0x3#4 ++ 0x3#4 := by decide
  rw [hheld, hword]
  exact .low_three k (l := holdNibble 0x3 false l) hm rfl rfl

/-- Another held nibble completes a garbage word, after which no nibble is held. -/
theorem Resyncs.low_other (k : Nat) {l : Lcd} (hm : l.obs.mode = .four) (hp : l.obs.phase = .low)
    (hn : l.obs.hiNib ≠ 0x3) :
    Resyncs (k + 3) l (.full (0#1 ++ l.obs.hiNib ++ 0x3#4) l.obs.hiRs :: .full 0x033 false ::
      (List.replicate k (.eightBit false 0x3) ++ [.eightBit false 0x2])) := by
  obtain ⟨hm', hp', hw⟩ := lcdLatch_three_low hm hp
  exact .latch hw (.high k (by rw [hm', if_neg hn]) hp')

/-- The four strobes by what they meet: the interface width, a held nibble, and E. -/
theorem resyncs_strobeWords (l : Lcd) :
    Resyncs (if l.obs.prevE then 4 else 3) { l with obs := { l.obs with prevE := false } } (strobeWords l.obs) := by
  obtain ⟨⟨mode, phase, hiNib, hiRs, prevE, region, words⟩, panel⟩ := l
  cases mode with
  | eight => cases prevE <;> exact .eight _ rfl
  | four =>
    cases phase with
    | high => cases prevE <;> exact .high _ rfl rfl
    | low =>
      by_cases hn : hiNib = 0x3
      · cases prevE <;> simp only [strobeWords, if_pos hn] <;> exact .low_three _ rfl rfl hn
      · cases prevE <;> simp only [strobeWords, if_neg hn] <;> exact .low_other _ rfl rfl hn

/-- Settles O44: the strobes latch `k` nibbles 0x3 and then 0x2, from each state the observer can be in. -/
theorem initStrobesResynchronise : Obligations.InitStrobesResynchronise := by
  unfold Obligations.InitStrobesResynchronise
  intro bl l
  rw [observeAll_strobeBytes]
  obtain ⟨hm, hp, hw⟩ := resyncs_strobeWords l
  exact ⟨⟨hm, hp, by rw [latchAll_prevE]⟩, hw⟩

end Sys2Proof.Machine
end


section
/-! The micro-ops of each request, where it completed: what they leave on the port (R106), and what they do to the
memories of a controller in step (R210 to R216). -/

namespace Sys2Proof.Machine

/-! ### The micro-ops of a request that completed -/

/-- `RequestIssues s i e ops t`: accepted in `s`, the request `i` writes its registers, which gives `t`, and then issues
exactly the micro-ops `ops`, with the ending `e`. -/
inductive RequestIssues (s : State) : Instr → Ending → List Op → State → Prop
  | init {rows cols : Byte} {addr : HalfWord} {clamp font backlight : Bool} :
    geometryLegal rows cols = true →
    RequestIssues s (.init rows cols addr clamp font backlight) .init
      (initOps s.timing (funcsetOf rows font) dispctlOfInit entryOfInit)
      (initRegisters rows cols addr clamp font backlight s)
  | clear : RequestIssues s .clear .plain (byteOps s.timing clearCommand false ++ [.delay s.timing.tClearHome]) s
  | home : RequestIssues s .home .plain (byteOps s.timing homeCommand false ++ [.delay s.timing.tClearHome]) s
  | cursor {row col : Byte} (clamped : Byte) :
    RequestIssues s (.setCursor row col) .plain (cursorOps s.timing clamped col) s
  | display {i : Instr} (mask dispctl : Byte) :
    isDisplayRequest i = true → IsDisplayFlag mask → FlagWritten mask s.dispctl dispctl →
    RequestIssues s i .plain (byteOps s.timing (displayCommand dispctl) false) { s with dispctl := dispctl }
  | entry {i : Instr} (mask entry : Byte) :
    isEntryRequest i = true → IsEntryFlag mask → FlagWritten mask s.entry entry →
    RequestIssues s i .plain (byteOps s.timing (entryCommand entry) false) { s with entry := entry }
  | backlight {on : Bool} : RequestIssues s (.setBacklight on) .plain blPushOps { s with bl := on }
  | print {data : List Byte} : RequestIssues s (.print data) .plain (dataOps s.timing data) s
  | unplacedText {sel : BitVec 4} {ell pad : Bool} {text : List Byte} :
    RequestIssues s (.showText sel ell pad text) .plain (dataOps s.timing text) s
  | placedText {sel : BitVec 4} {ell pad : Bool} {text : List Byte} (row : Nat) (chunks : List (List Byte)) :
    RequestIssues s (.showText sel ell pad text) .plain (chunkOps s.timing row chunks) s
  | glyph {slot : BitVec 7} {bitmap : List Byte} :
    RequestIssues s (.uploadGlyph slot bitmap) (glyphEnding slot bitmap)
      (byteOps s.timing (cgramCommand (cgAddr slot)) false ++ dataOps s.timing bitmap) s
  | writeByte {isData : Bool} {value : Byte} :
    RequestIssues s (.writeByte isData value) .plain (byteOps s.timing value isData) s

/-- It is what `RequestRuns` says of the request, with the micro-ops told. -/
theorem RequestIssues.runs {s t : State} {i : Instr} {e : Ending} {ops : List Op} (h : RequestIssues s i e ops t) :
    RequestRuns s i e ops t := by
  cases h with
  | init hg => exact .init hg
  | display mask dispctl hd hm hw => exact .display mask dispctl hd hm hw
  | entry mask entry he hm hw => exact .entry mask entry he hm hw
  | backlight => exact .backlight
  | glyph => exact .glyph
  | clear | home | cursor _ | print | unplacedText | placedText _ _ | writeByte => exact .sends rfl

/-- A request that needs a Ready block and completed ran its body. -/
theorem acceptReady_ok {s t : State} {body : State → StepOutcome} (h : acceptReady s body = .next t)
    (hok : t.result = some .ok) : body { s with trace := [], result := none } = .next t := by
  obtain ⟨-, rfl | hb⟩ := acceptReady_next h
  · cases hok
  · exact hb

/-- A request that answers OK issued its micro-ops. -/
theorem exec_request_ok {i : Instr} {s t : State} (hi : isRequest i = true) (h : exec i s = .next t)
    (hok : t.result = some .ok) :
    ∃ e ops s1, RequestIssues { s with trace := [], result := none } i e ops s1 ∧ t = perform e ops s1 := by
  unfold exec at h
  cases i with
  | init rows cols addr clamp font backlight =>
    replace h := (acceptIdle_next h).2
    dsimp only at h
    split at h
    · cases h; exact ⟨_, _, _, .init ‹_›, rfl⟩
    · cases h; cases hok
  | illegalRequest opcode => cases (acceptIdle_next h).2; cases hok
  | setCursor row col =>
    replace h := acceptReady_ok h hok
    dsimp only at h
    repeat' split at h
    · cases h; cases hok
    · cases h; exact ⟨_, _, _, .cursor _, rfl⟩
    · cases h; cases hok
    · cases h; exact ⟨_, _, _, .cursor _, rfl⟩
  | showText sel ell pad text =>
    replace h := acceptReady_ok h hok
    dsimp only at h
    repeat' split at h
    · cases h; exact ⟨_, _, _, .unplacedText, rfl⟩
    · cases h; cases hok
    · cases h; exact ⟨_, _, _, .placedText _ _, rfl⟩
  | clear => cases acceptReady_ok h hok; exact ⟨_, _, _, .clear, rfl⟩
  | home => cases acceptReady_ok h hok; exact ⟨_, _, _, .home, rfl⟩
  | print data => cases acceptReady_ok h hok; exact ⟨_, _, _, .print, rfl⟩
  | writeByte isData value => cases acceptReady_ok h hok; exact ⟨_, _, _, .writeByte, rfl⟩
  | setBacklight on => cases acceptReady_ok h hok; exact ⟨_, _, _, .backlight, rfl⟩
  | uploadGlyph slot bitmap => cases acceptReady_ok h hok; exact ⟨_, _, _, .glyph, rfl⟩
  | cursorOn | blinkOn | displayOn =>
    cases acceptReady_ok h hok
    exact ⟨_, _, _, .display _ _ rfl (by decide) (.inl rfl), rfl⟩
  | cursorOff | blinkOff | displayOff =>
    cases acceptReady_ok h hok
    exact ⟨_, _, _, .display _ _ rfl (by decide) (.inr rfl), rfl⟩
  | leftToRight | autoscroll =>
    cases acceptReady_ok h hok
    exact ⟨_, _, _, .entry _ _ rfl (by decide) (.inl rfl), rfl⟩
  | rightToLeft | noAutoscroll =>
    cases acceptReady_ok h hok
    exact ⟨_, _, _, .entry _ _ rfl (by decide) (.inr rfl), rfl⟩
  | _ => cases hi

/-! ### E after the last transaction (R106) -/

/-- The last byte the micro-ops send, if they send one, has E low. -/
structure EndsStrobeLow (ops : List Op) : Prop where
  last : ∀ addr bl, ∀ b ∈ (sentBytes (opEvents addr bl ops)).getLast?, b.getLsbD 2 = false

theorem EndsStrobeLow.nil : EndsStrobeLow [] := ⟨fun _ _ _ hb => by cases hb⟩

theorem EndsStrobeLow.delay (t : Nat) : EndsStrobeLow [.delay t] := ⟨fun _ _ _ hb => by cases hb⟩

theorem EndsStrobeLow.append {a b : List Op} (ha : EndsStrobeLow a) (hb : EndsStrobeLow b) :
    EndsStrobeLow (a ++ b) := by
  refine ⟨fun addr bl x hx => ?_⟩
  rw [opEvents_append, sentBytes_append, List.getLast?_append] at hx
  cases hl : (sentBytes (opEvents addr bl b)).getLast? with
  | some y => rw [hl] at hx; exact hb.last addr bl x (hl ▸ hx)
  | none => rw [hl] at hx; exact ha.last addr bl x hx

theorem EndsStrobeLow.nibOps (t : Timing) (n : Byte) (rs : Bool) (settle : Nat) :
    EndsStrobeLow (nibOps t n rs settle) :=
  ⟨fun _ _ _ hb => by cases hb; exact wireByte_strobe ..⟩

theorem EndsStrobeLow.byteOps (t : Timing) (v : Byte) (rs : Bool) : EndsStrobeLow (byteOps t v rs) :=
  .append (.nibOps ..) (.nibOps ..)

theorem EndsStrobeLow.blPushOps : EndsStrobeLow blPushOps :=
  ⟨fun _ _ _ hb => by cases hb; exact wireByte_strobe ..⟩

theorem EndsStrobeLow.dataOps (t : Timing) (data : List Byte) : EndsStrobeLow (dataOps t data) := by
  induction data with
  | nil => exact .nil
  | cons d data ih => exact .append (.byteOps t d true) ih

theorem EndsStrobeLow.chunkOps (t : Timing) (row : Nat) (chunks : List (List Byte)) :
    EndsStrobeLow (chunkOps t row chunks) := by
  induction chunks generalizing row with
  | nil => exact .nil
  | cons chunk chunks ih => exact .append (.append (.byteOps ..) (.dataOps t chunk)) (ih (row + 1))

theorem EndsStrobeLow.initOps (t : Timing) (funcset dispctl entry : Byte) :
    EndsStrobeLow (initOps t funcset dispctl entry) :=
  ⟨fun _ _ _ hb => by cases hb; exact wireByte_strobe ..⟩

/-- Every request's micro-ops are made of such lists. -/
theorem RequestIssues.endsStrobeLow {s t : State} {i : Instr} {e : Ending} {ops : List Op}
    (h : RequestIssues s i e ops t) : EndsStrobeLow ops := by
  cases h with
  | init _ => exact .initOps ..
  | clear | home => exact .append (.byteOps ..) (.delay _)
  | cursor _ | display _ _ _ _ _ | entry _ _ _ _ _ | writeByte => exact .byteOps ..
  | backlight => exact .blPushOps
  | print | unplacedText => exact .dataOps ..
  | placedText row chunks => exact .chunkOps ..
  | glyph => exact .append (.byteOps ..) (.dataOps ..)

/-- Settles O25: the port holds the last byte of the trace. -/
theorem strobeLowAfterOk : Obligations.StrobeLowAfterOk := by
  unfold Obligations.StrobeLowAfterOk
  intro i s t hi h hok hsent
  obtain ⟨e, ops, s1, hr, rfl⟩ := exec_request_ok hi h hok
  obtain ⟨htrace, hlatch, -⟩ := perform_of_ok hok
  rw [htrace, hr.runs.trace_eq, List.nil_append] at hsent
  rw [hlatch, List.getLastD_eq_getLast?, List.getLast?_eq_some_getLast hsent]
  exact hr.endsStrobeLow.last _ _ _ (List.getLast?_eq_some_getLast hsent)

/-! ### What the words of a request do to the memories (R210 to R216) -/

/-- Words that write neither memory (R211, R212, R213, R216). -/
def storesNothing : Instr → Bool
  | .returnHome x => !x
  | .entryModeSet _ _ | .displayControl _ _ _ | .setDdramAddr _ => true
  | _ => false

/-- The controller is in step, and its memories are as in `old`. -/
def KeepsMemories (old l : Lcd) : Prop :=
  InStep l ∧ l.panel.ddram = old.panel.ddram ∧ l.panel.cgram = old.panel.cgram

theorem lcdDeliver_storesNothing {w : CtrlWord} {l : Lcd} (hw : storesNothing (decodeWord w) = true) (h : InStep l) :
    KeepsMemories l (lcdDeliver w false true l) := by
  unfold lcdDeliver
  split
  case h_2 x hd =>
    obtain rfl : x = false := by simpa [hd, storesNothing] using hw
    exact ⟨h, rfl, rfl⟩
  case h_3 | h_4 | h_7 => exact ⟨h, rfl, rfl⟩
  all_goals
    rename_i hd
    simp [hd, storesNothing] at hw

/-- DISPLAY_CONTROL from a DISPCTL whose reserved bits are 0 (R28, R81). -/
theorem storesNothing_displayCommand :
    ∀ d : Byte, d &&& 0xF8 = 0 → storesNothing (decodeWord (ctrlWord false (displayCommand d))) = true := by decide

/-- ENTRY_MODE from an ENTRY whose reserved bits are 0 (R27, R81). -/
theorem storesNothing_entryCommand :
    ∀ d : Byte, d &&& 0xFC = 0 → storesNothing (decodeWord (ctrlWord false (entryCommand d))) = true := by decide

/-- SET_DDRAM_ADDR of any position (R81, R83). -/
theorem storesNothing_ddramCommand (row col : Byte) :
    storesNothing (decodeWord (ctrlWord false (ddramCommand (ddAddr row col)))) = true := by
  unfold ddAddr
  generalize rowOff row.toNat + col = a
  revert a; decide

/-- What the bytes of micro-ops do to a controller in step: its memories stay. -/
def OpsKeepMemories (ops : List Op) : Prop :=
  ∀ addr bl l, InStep l → l.panel.framed = true →
    KeepsMemories l (observeAll (sentBytes (opEvents addr bl ops)) l)

/-- The command byte `v`, trusted, to a controller in step: its word, with the high nibble left in the latch. -/
theorem observeAll_command (bl : Bool) (v : Byte) {l : Lcd} (h : InStep l) (hf : l.panel.framed = true) :
    observeAll (byteBytes bl v false) l =
      lcdDeliver (ctrlWord false v) false true
        { l with obs := { l.obs with hiNib := (v &&& 0xF0).extractLsb' 4 4, hiRs := false } } := by
  rw [observeAll_byteBytes bl v false h, hf]

theorem OpsKeepMemories.byteOps (t : Timing) {v : Byte}
    (hv : storesNothing (decodeWord (ctrlWord false v)) = true) : OpsKeepMemories (byteOps t v false) := by
  intro addr bl l h hf
  have hb : sentBytes (opEvents addr bl (Machine.byteOps t v false)) = byteBytes bl v false := rfl
  rw [hb, observeAll_command bl v h hf]
  exact lcdDeliver_storesNothing hv h

theorem OpsKeepMemories.delay {ops : List Op} (h : OpsKeepMemories ops) (t : Nat) :
    OpsKeepMemories (ops ++ [.delay t]) := by
  intro addr bl l hl hf
  rw [opEvents_append, sentBytes_append, observeAll_append]
  exact h addr bl l hl hf

theorem OpsKeepMemories.blPushOps : OpsKeepMemories blPushOps := by
  intro addr bl l h _
  have hb : observeAll (sentBytes (opEvents addr bl Machine.blPushOps)) l =
    lcdObserve (wireByte bl 0x00 false false) l := rfl
  rw [hb, lcdObserve_blPush bl h.2.2]
  exact ⟨h, rfl, rfl⟩

/-- The requests that store nothing. -/
abbrev LeavesMemories (i : Instr) : Prop :=
  isDisplayRequest i = true ∨ isEntryRequest i = true ∨ isBacklightRequest i = true ∨
    (∃ row col, i = .setCursor row col) ∨ i = .home

theorem LeavesMemories.isRequest {i : Instr} (hi : LeavesMemories i) : isRequest i = true := by
  cases i with
  | home | setCursor _ _ | setBacklight _ | cursorOn | cursorOff | blinkOn | blinkOff | displayOn | displayOff
  | leftToRight | rightToLeft | autoscroll | noAutoscroll => rfl
  | _ => simp [LeavesMemories, isDisplayRequest, isEntryRequest, isBacklightRequest] at hi

/-- They send one command that writes neither memory, or the backlight push. -/
theorem RequestIssues.keepMemories {s t : State} {i : Instr} {e : Ending} {ops : List Op}
    (hr : RequestIssues s i e ops t) (hi : LeavesMemories i) (hL : Lawful (startSeq e ops t)) :
    e = .plain ∧ OpsKeepMemories ops := by
  cases hr with
  | home => exact ⟨rfl, .delay (.byteOps _ (by decide)) _⟩
  | cursor row => exact ⟨rfl, .byteOps _ (storesNothing_ddramCommand ..)⟩
  | display mask dispctl => exact ⟨rfl, .byteOps _ (storesNothing_displayCommand _ hL.dispctl)⟩
  | entry mask entry => exact ⟨rfl, .byteOps _ (storesNothing_entryCommand _ hL.entry)⟩
  | backlight => exact ⟨rfl, .blPushOps⟩
  | _ => simp [LeavesMemories, isDisplayRequest, isEntryRequest, isBacklightRequest] at hi

/-- CLEAR's word to a controller in step: DDRAM all spaces (R210). -/
theorem observeAll_clear (bl : Bool) {l : Lcd} (h : InStep l) (hf : l.panel.framed = true) :
    InStep (observeAll (byteBytes bl clearCommand false) l) ∧
      (observeAll (byteBytes bl clearCommand false) l).panel = panelClear l.panel := by
  rw [observeAll_command bl clearCommand h hf]
  exact ⟨h, rfl⟩

/-- Settles O46: the micro-ops of each request by name, and each word by its class. -/
theorem requestsAndControllerMemory : Obligations.RequestsAndControllerMemory := by
  unfold Obligations.RequestsAndControllerMemory
  refine ⟨fun i s t hi hL h hok hstep hf => ?_, fun s t h hok hstep hf => ?_⟩
  · have hreq := LeavesMemories.isRequest hi
    obtain ⟨e, ops, s1, hr, rfl⟩ := exec_request_ok hreq h hok
    obtain ⟨rfl, hkeep⟩ := hr.keepMemories hi
      ((hL.traceEmptied none).runs (exec_request_moves hreq h).1 hr.runs)
    rw [(perform_of_ok hok).2.2, (hr.runs.port_eq rfl).2]
    exact hkeep _ _ _ hstep hf
  · obtain ⟨e, ops, s1, hr, rfl⟩ := exec_request_ok rfl h hok
    cases hr with
    | clear =>
      obtain ⟨hstep', hpanel⟩ := observeAll_clear s.bl hstep hf
      rw [(perform_of_ok hok).2.2]
      refine ⟨hstep', fun a ha => ?_, (congrArg Panel.cgram hpanel).trans rfl⟩
      exact (congrArg (fun p => Memory.read p.ddram a) hpanel).trans (Memory.read_fill 128 a 0x20 ha)
    | display _ _ hd => cases hd
    | entry _ _ he => cases he

end Sys2Proof.Machine
end

section
/-! Requests that complete, said once for the display controller's family: what their micro-ops leave, and a request
that writes no register. -/

namespace Sys2Proof.Machine

/-- A request whose Tx are all answered Ok, as it begins when accepted, whatever its end does. -/
theorem perform_ending_ok (e : Ending) (ops : List Op) (s : State) (rest : List Answer)
    (hok : AnswersOk (opTxCount ops) rest s) (hs : s.seq = .idle) :
    perform e ops { s with trace := [], result := none } =
      { sentOk s (opEvents s.devAddr s.bl ops) rest with
        life := lifeEnding e s.life,
        lcd := lcdEnding e (observeAll (sentBytes (opEvents s.devAddr s.bl ops)) s.lcd) } := by
  refine (perform_all_ok e ops { s with trace := [], result := none } rest hok rfl).trans ?_
  simp [sentOk, hs]

/-- A request that needs a Ready block and writes no register. -/
theorem exec_sends_ok {i : Instr} {ops : Timing → List Op} {s : State} {rest : List Answer}
    (hi : exec i s = acceptReady s fun s => .next (perform .plain (ops s.timing) s)) (ha : Accepts s)
    (hok : AnswersOk (opTxCount (ops s.timing)) rest s) :
    exec i s = .next (sentOk s (opEvents s.devAddr s.bl (ops s.timing)) rest) := by
  rw [hi, acceptReady_ready _ _ ha, perform_sentOk (ops s.timing) s rest hok ha.1]

/-- A request other than INIT and UPLOAD_GLYPH that answered OK, against the state it began its micro-ops in. -/
theorem perform_plain_wireOnly {ops : List Op} {s : State} (hs : s.seq = .idle)
    (hok : (perform .plain ops s).result = some .ok) :
    WireOnly { s with result := some .ok } (perform .plain ops s) := by
  refine (perform_frame .plain ops s).trans ?_
  rw [perform_life_of_ne_init (by decide), hok, hs]

end Sys2Proof.Machine
end

section
/-! The eleven requests that write one flag or BL (R135 to R145, R147), said once: what each makes of its register, and
what it then sends. -/

namespace Sys2Proof.Machine

/-! ### The registers after a flag request or SET_BACKLIGHT -/

/-- DISPCTL after the request's own write (R135 to R140). -/
def dispctlAfter : Instr → Byte → Byte
  | .cursorOn => setFlag dispC
  | .cursorOff => clearFlag dispC
  | .blinkOn => setFlag dispB
  | .blinkOff => clearFlag dispB
  | .displayOn => setFlag dispD
  | .displayOff => clearFlag dispD
  | _ => id

/-- ENTRY after the request's own write (R141 to R144). -/
def entryAfter : Instr → Byte → Byte
  | .leftToRight => setFlag entryId
  | .rightToLeft => clearFlag entryId
  | .autoscroll => setFlag entryS
  | .noAutoscroll => clearFlag entryS
  | _ => id

/-- BL after the request's own write (R145). -/
def backlightAfter : Instr → Bool → Bool
  | .setBacklight on => fun _ => on
  | _ => id

/-- The register write of the request, before its first micro-op (R147). -/
def shadowWrite (i : Instr) (s : State) : State :=
  { s with dispctl := dispctlAfter i s.dispctl, entry := entryAfter i s.entry, bl := backlightAfter i s.bl }

/-- What the request sends: the command of its register, or the backlight push. -/
def shadowOps (i : Instr) (s : State) : List Op :=
  if isDisplayRequest i then byteOps s.timing (displayCommand s.dispctl) false
  else if isEntryRequest i then byteOps s.timing (entryCommand s.entry) false
  else blPushOps

/-- The ten flag requests and SET_BACKLIGHT. -/
abbrev WritesShadow (i : Instr) : Prop :=
  isDisplayRequest i = true ∨ isEntryRequest i = true ∨ isBacklightRequest i = true

/-! ### The same write twice (R148) -/

theorem setFlag_setFlag (mask reg : Byte) : setFlag mask (setFlag mask reg) = setFlag mask reg := by
  simp [setFlag, BitVec.or_assoc]

theorem clearFlag_clearFlag (mask reg : Byte) : clearFlag mask (clearFlag mask reg) = clearFlag mask reg := by
  simp [clearFlag, BitVec.and_assoc]

@[simp] theorem dispctlAfter_dispctlAfter (i : Instr) (d : Byte) :
    dispctlAfter i (dispctlAfter i d) = dispctlAfter i d := by
  cases i with
  | cursorOn | blinkOn | displayOn => exact setFlag_setFlag _ d
  | cursorOff | blinkOff | displayOff => exact clearFlag_clearFlag _ d
  | _ => rfl

@[simp] theorem entryAfter_entryAfter (i : Instr) (d : Byte) : entryAfter i (entryAfter i d) = entryAfter i d := by
  cases i with
  | leftToRight | autoscroll => exact setFlag_setFlag _ d
  | rightToLeft | noAutoscroll => exact clearFlag_clearFlag _ d
  | _ => rfl

@[simp] theorem backlightAfter_backlightAfter (i : Instr) (b : Bool) :
    backlightAfter i (backlightAfter i b) = backlightAfter i b := by
  cases i <;> rfl

/-! ### The request itself -/

theorem shadowOps_perform (i : Instr) (e : Ending) (ops : List Op) (s : State) :
    shadowOps i (perform e ops s) = shadowOps i s := by
  simp [shadowOps]

theorem exec_shadow {i : Instr} (hi : WritesShadow i) (s : State) :
    exec i s = acceptReady s fun s => .next (perform .plain (shadowOps i (shadowWrite i s)) (shadowWrite i s)) := by
  cases i with
  | cursorOn | cursorOff | blinkOn | blinkOff | displayOn | displayOff | leftToRight | rightToLeft | autoscroll
  | noAutoscroll | setBacklight _ => rfl
  | _ => simp [WritesShadow, isDisplayRequest, isEntryRequest, isBacklightRequest] at hi

theorem opTxCount_shadowOps (i : Instr) (hi : WritesShadow i) (s : State) :
    opTxCount (shadowOps i s) = if isBacklightRequest i then 1 else 6 := by
  cases i with
  | cursorOn | cursorOff | blinkOn | blinkOff | displayOn | displayOff | leftToRight | rightToLeft | autoscroll
  | noAutoscroll | setBacklight _ => rfl
  | _ => simp [WritesShadow, isDisplayRequest, isEntryRequest, isBacklightRequest] at hi

theorem exec_shadow_ready {i : Instr} (hi : WritesShadow i) {s : State} (ha : Accepts s) :
    exec i s = .next (perform .plain (shadowOps i (shadowWrite i s))
      { shadowWrite i s with trace := [], result := none }) := by
  rw [exec_shadow hi, acceptReady_ready _ _ ha]
  rfl

/-- Settles O29: the micro-ops write no register, however they end. -/
theorem shadowRegistersKeepTheirValue : Obligations.ShadowRegistersKeepTheirValue := by
  unfold Obligations.ShadowRegistersKeepTheirValue
  intro s ha
  have display {i : Instr} (hi : isDisplayRequest i = true) :
      ∃ t, exec i s = .next t ∧ t.dispctl = dispctlAfter i s.dispctl :=
    ⟨_, exec_shadow_ready (.inl hi) ha, perform_dispctl ..⟩
  have entry {i : Instr} (hi : isEntryRequest i = true) :
      ∃ t, exec i s = .next t ∧ t.entry = entryAfter i s.entry :=
    ⟨_, exec_shadow_ready (.inr (.inl hi)) ha, perform_entry ..⟩
  exact ⟨display rfl, display rfl, display rfl, display rfl, display rfl, display rfl, entry rfl, entry rfl, entry rfl,
    entry rfl, fun on => ⟨_, exec_shadow_ready (.inr (.inr rfl)) ha, perform_bl ..⟩⟩

/-! ### Every Tx answered Ok -/

theorem exec_shadow_ok {i : Instr} (hi : WritesShadow i) {s : State} {rest : List Answer} (ha : Accepts s)
    (hok : AnswersOk (if isBacklightRequest i then 1 else 6) rest s) :
    exec i s = .next (sentOk (shadowWrite i s)
      (opEvents s.devAddr (shadowWrite i s).bl (shadowOps i (shadowWrite i s))) rest) := by
  rw [← opTxCount_shadowOps i hi (shadowWrite i s)] at hok
  rw [exec_shadow_ready hi ha]
  exact congrArg _ (perform_sentOk (shadowOps i (shadowWrite i s)) (shadowWrite i s) rest hok ha.1)

/-- Settles O33: six display requests, four entry requests, each by its write and its command. -/
theorem flagRequestsComplete : Obligations.FlagRequestsComplete := by
  unfold Obligations.FlagRequestsComplete
  intro s rest ha hok
  exact ⟨exec_shadow_ok (.inl rfl) ha hok, exec_shadow_ok (.inl rfl) ha hok, exec_shadow_ok (.inl rfl) ha hok,
    exec_shadow_ok (.inl rfl) ha hok, exec_shadow_ok (.inl rfl) ha hok, exec_shadow_ok (.inl rfl) ha hok,
    exec_shadow_ok (.inr (.inl rfl)) ha hok, exec_shadow_ok (.inr (.inl rfl)) ha hok,
    exec_shadow_ok (.inr (.inl rfl)) ha hok, exec_shadow_ok (.inr (.inl rfl)) ha hok⟩

/-- The byte of the backlight push (R104). -/
theorem wireByte_blPush (bl : Bool) : wireByte bl 0x00 false false = if bl then 0x08 else 0x00 := by
  cases bl <;> rfl

/-- Settles O34: the push of the new BL. -/
theorem setBacklightCompletes : Obligations.SetBacklightCompletes := by
  unfold Obligations.SetBacklightCompletes
  intro on s rest ha hok
  rw [← wireByte_blPush]
  exact exec_shadow_ok (i := .setBacklight on) (.inr (.inr rfl)) ha hok

/-! ### The request issued twice -/

/-- A flag request or SET_BACKLIGHT that answered OK: its register write, and the micro-ops that follow from it. -/
theorem exec_shadow_of_ok {i : Instr} (hi : WritesShadow i) {s t : State} (h : exec i s = .next t)
    (hok : t.result = some .ok) :
    WireOnly { shadowWrite i s with result := some .ok } t ∧ t.trace = opEvents t.devAddr t.bl (shadowOps i t) ∧
      t.expLatch = (sentBytes t.trace).getLastD s.expLatch := by
  rw [exec_shadow hi] at h
  have hs := (acceptReady_next h).1
  cases acceptReady_ok h hok
  obtain ⟨htrace, hlatch, -⟩ := perform_of_ok hok
  refine ⟨perform_plain_wireOnly hs hok, ?_, ?_⟩
  · rw [htrace, perform_devAddr, perform_bl, shadowOps_perform]
    rfl
  · rw [hlatch, htrace]
    rfl

/-- The same write again changes nothing. -/
theorem shadowWrite_eq_self {i : Instr} {s t : State} {r : Option Result}
    (h : WireOnly { shadowWrite i s with result := r } t) : shadowWrite i t = t := by
  unfold WireOnly at h
  rw [h]
  simp [shadowWrite]

theorem shadowOps_of_wireOnly (i : Instr) {s t : State} (h : WireOnly s t) : shadowOps i t = shadowOps i s := by
  unfold WireOnly at h
  rw [h]
  rfl

/-- The last byte of a list, by a default that is already its last byte. -/
theorem getLastD_getLastD (l : List Byte) (b : Byte) : l.getLastD (l.getLastD b) = l.getLastD b := by
  cases l <;> rfl

/-- Settles O31: the second write changes nothing, so the second issue sends what the first sent. -/
theorem flagRequestsAreIdempotent : Obligations.FlagRequestsAreIdempotent := by
  unfold Obligations.FlagRequestsAreIdempotent
  intro i s t u hi ht htok hu huok
  obtain ⟨hfirst, httrace, htlatch⟩ := exec_shadow_of_ok hi ht htok
  obtain ⟨hsecond, hutrace, hulatch⟩ := exec_shadow_of_ok hi hu huok
  rw [shadowWrite_eq_self hfirst, ← htok] at hsecond
  replace hsecond : WireOnly t u := hsecond
  have htrace : u.trace = t.trace := by
    rw [hutrace, httrace, hsecond.devAddr, hsecond.bl, shadowOps_of_wireOnly i hsecond]
  have hlatch : u.expLatch = t.expLatch := by rw [hulatch, htrace, htlatch, getLastD_getLastD]
  have hcount : txCount t.trace = if isBacklightRequest i then 1 else 6 := by
    rw [txCount, httrace, length_sentBytes_opEvents, opTxCount_shadowOps i hi]
  have hregs := hsecond
  unfold WireOnly at hregs
  refine ⟨?_, ?_, ?_, ?_, ?_, ?_, ?_, ?_, ?_, ?_, hlatch, hsecond.seq, congrArg sentBytes htrace, hcount⟩
  all_goals rw [hregs]

end Sys2Proof.Machine
end

section
/-! The display controller's other requests (R131 to R134, R146), every Tx answered Ok, and SET_CURSOR outside the
geometry (R134, R25). -/

namespace Sys2Proof.Machine

/-- Settles O32: a command's six Tx, then one delay. -/
theorem clearAndHomeComplete : Obligations.ClearAndHomeComplete := by
  unfold Obligations.ClearAndHomeComplete
  intro s rest ha hok
  exact ⟨exec_sends_ok (ops := fun t => byteOps t clearCommand false ++ [.delay t.tClearHome]) rfl ha hok,
    exec_sends_ok (ops := fun t => byteOps t homeCommand false ++ [.delay t.tClearHome]) rfl ha hok⟩

/-- Settles O35: WRITE_BYTE's own equation. -/
theorem writeByteCompletes : Obligations.WriteByteCompletes := by
  unfold Obligations.WriteByteCompletes
  exact fun isData value _ _ ha hok => exec_writeByte_ok isData value ha hok

/-! ### SET_CURSOR (R134) -/

/-- SET_CURSOR on a Ready block: the column is checked first, then the row, which OPT_CLAMP clamps. -/
theorem exec_setCursor_ready (row col : Byte) {s : State} (ha : Accepts s) :
    exec (.setCursor row col) s =
      if s.geomCols.toNat ≤ col.toNat then .next (answered s (.invalidPosition row col s.geomRows s.geomCols))
      else if s.geomRows.toNat ≤ row.toNat then
        if s.optClamp then
          .next (perform .plain (cursorOps s.timing (s.geomRows - 1) col) { s with trace := [], result := none })
        else .next (answered s (.invalidPosition row col s.geomRows s.geomCols))
      else .next (perform .plain (cursorOps s.timing row col) { s with trace := [], result := none }) := by
  have hx : exec (.setCursor row col) s = execSetCursor row col s := rfl
  have hinvalid : invalidPosition row col { s with trace := [], result := none } =
      .next (answered s (.invalidPosition row col s.geomRows s.geomCols)) := congrArg _ (endRequest_accepted _ ha.1)
  rw [hx, execSetCursor, acceptReady_ready _ _ ha, hinvalid]

/-- Settles O17: the column's check, or the row's where nothing clamps it. -/
theorem setCursorOutsideGeometry : Obligations.SetCursorOutsideGeometry := by
  unfold Obligations.SetCursorOutsideGeometry
  intro row col s ha hout
  rw [exec_setCursor_ready row col ha]
  split
  · rfl
  · obtain ⟨hrow, hclamp⟩ := hout.resolve_left ‹_›
    rw [if_pos hrow, hclamp]
    rfl

/-- The cursor command, every Tx answered Ok. -/
theorem perform_cursorOps (row col : Byte) {s : State} {rest : List Answer} (ha : Accepts s)
    (hok : AnswersOk 6 rest s) :
    perform .plain (cursorOps s.timing row col) { s with trace := [], result := none } =
      sentOk s (byteEvents s (0x80 ||| ((rowOff row.toNat + col) &&& 0x7F)) false) rest :=
  perform_sentOk (cursorOps s.timing row col) s rest hok ha.1

/-- Settles O36: the row itself, or the last one. -/
theorem setCursorCompletes : Obligations.SetCursorCompletes := by
  unfold Obligations.SetCursorCompletes
  refine ⟨⟨rfl, rfl, rfl, rfl⟩, fun row col s rest ha hok hcol => ?_⟩
  rw [exec_setCursor_ready row col ha, if_neg (Nat.not_le.mpr hcol)]
  refine ⟨fun hrow => ?_, fun hrow hclamp => ?_⟩
  · rw [if_neg (Nat.not_le.mpr hrow), perform_cursorOps row col ha hok]
  · rw [if_pos hrow, if_pos hclamp, perform_cursorOps (s.geomRows - 1) col ha hok]

/-! ### INIT (R131) -/

/-- The events of the cold-start sequence, with DISPCTL and ENTRY as INIT loads them. -/
theorem opEvents_initOps (s : State) (funcset : Byte) :
    opEvents s.devAddr s.bl (initOps s.timing funcset dispctlOfInit entryOfInit) = initEvents s funcset := rfl

/-- INIT with a legal geometry, every Tx answered Ok. -/
theorem exec_init_ok {rows cols : Byte} (addr : HalfWord) (clamp font backlight : Bool) {s s1 : State}
    {rest : List Answer} (hs : s.seq = .idle) (hok : AnswersOk 42 rest s) (hg : geometryLegal rows cols = true)
    (hregs : initRegisters rows cols addr clamp font backlight s = s1) :
    exec (.init rows cols addr clamp font backlight) s =
      .next { sentOk s1 (initEvents s1 s1.funcset) rest with
        life := .ready, lcd := lcdResyncEnd (observeAll (sentBytes (initEvents s1 s1.funcset)) s1.lcd) } := by
  subst hregs
  rw [exec_init_legal addr clamp font backlight hs hg, ← opEvents_initOps]
  exact congrArg _ (perform_ending_ok .init _ (initRegisters rows cols addr clamp font backlight s) rest hok hs)

/-- Settles O40: INIT's registers, then the cold-start sequence, every Tx answered Ok. -/
theorem initCompletes : Obligations.InitCompletes := by
  unfold Obligations.InitCompletes
  intro rows cols addr clamp font backlight s rest hs hok hrows hlow hhigh funcset s1
  have hg := (geometryLegal_iff rows cols).mpr ⟨hrows, hlow, hhigh⟩
  have hregs : initRegisters rows cols addr clamp font backlight s = { s1 with life := .uninitialized } := by
    rw [initRegisters, funcsetOf_legal font hrows]
    rfl
  exact (exec_init_ok addr clamp font backlight hs hok hg hregs).trans rfl

end Sys2Proof.Machine
end

section
/-! The layout function, by its three forms (R173 to R175): the text cut, its overflow marked, and its rows padded. -/

namespace Sys2Proof.Machine

/-! ### The row range of a selection (R172) -/

theorem ne_zero_of_getLsbD {sel : BitVec 4} {b : Nat} (hb : sel.getLsbD b = true) : sel ≠ 0 := by
  rintro rfl
  simp at hb

/-- A selection from row `b` to row `e` fills `e - b + 1` rows. -/
theorem rowCount_eq {sel : BitVec 4} {b e : Nat} (hb : sel.getLsbD b = true) (hl : ∀ j, j < b → sel.getLsbD j = false)
    (he : sel.getLsbD e = true) (hh : ∀ j, e < j → sel.getLsbD j = false) : rowCount sel = e - b + 1 := by
  rw [rowCount, (startRow_eq hb hl).1, (endRow_eq he hh).1]

theorem rowCount_pos (sel : BitVec 4) : 0 < rowCount sel := Nat.succ_pos _

/-! ### The three forms of a layout -/

@[simp] theorem layout_nil (sel : BitVec 4) (ell pad : Bool) (cols : Nat) : layout [] sel ell pad cols = [] := rfl

@[simp] theorem chunksOf_nil (cols n : Nat) : chunksOf cols n [] = [] := by
  cases n <;> rfl

section
variable {text : List Byte} {sel : BitVec 4} {cols : Nat} (hs : sel ≠ 0)
include hs

theorem layout_plain : layout text sel false false cols = chunksOf cols (rowCount sel) text := by
  by_cases ht : text = []
  · rw [ht, layout_nil, chunksOf_nil]
  · rw [layout, if_neg ht, if_neg hs]
    simp

theorem layout_overflow (ell pad : Bool) (ho : rowCount sel * cols < text.length) :
    layout text sel ell pad cols =
      if ell then markOverflow cols (rowCount sel) (chunksOf cols (rowCount sel) text)
      else chunksOf cols (rowCount sel) text := by
  have ht : text ≠ [] := List.length_pos_iff.mp (Nat.zero_lt_of_lt ho)
  rw [layout, if_neg ht, if_neg hs]
  exact if_pos ho

theorem layout_fitting (ell pad : Bool) (ht : text ≠ []) (hf : text.length ≤ rowCount sel * cols) :
    layout text sel ell pad cols =
      if pad then padRows cols (rowCount sel) (chunksOf cols (rowCount sel) text)
      else chunksOf cols (rowCount sel) text := by
  rw [layout, if_neg ht, if_neg hs]
  exact if_neg (Nat.not_lt.mpr hf)

end

/-- Settles O56: the first two branches of the layout. -/
theorem layoutOfEmptyOrUnselected : Obligations.LayoutOfEmptyOrUnselected := by
  unfold Obligations.LayoutOfEmptyOrUnselected
  refine ⟨layout_nil, fun text ell pad cols ht => ?_⟩
  rw [layout, if_neg ht, if_pos rfl]

/-! ### No chunk is longer than the row -/

theorem forall_mem_modify {P : List Byte → Prop} {f : List Byte → List Byte} {chunks : List (List Byte)} (i : Nat)
    (h : ∀ c ∈ chunks, P c) (hf : ∀ c, P c → P (f c)) : ∀ c ∈ chunks.modify i f, P c := by
  induction chunks generalizing i with
  | nil => simp
  | cons c chunks ih =>
    obtain ⟨hc, hcs⟩ := List.forall_mem_cons.mp h
    cases i with
    | zero => exact List.forall_mem_cons.mpr ⟨hf c hc, hcs⟩
    | succ i => exact List.forall_mem_cons.mpr ⟨hc, ih i hcs⟩

theorem markOverflow_fit (n : Nat) {cols : Nat} {chunks : List (List Byte)} (h : ∀ c ∈ chunks, c.length ≤ cols) :
    ∀ c ∈ markOverflow cols n chunks, c.length ≤ cols :=
  forall_mem_modify _ h fun c hc => by rwa [List.length_set]

theorem padRows_fit (n : Nat) {cols : Nat} {chunks : List (List Byte)} (h : ∀ c ∈ chunks, c.length ≤ cols) :
    ∀ c ∈ padRows cols n chunks, c.length ≤ cols := by
  intro c hc
  rcases List.mem_append.mp hc with hc | hc
  · exact forall_mem_modify _ h (fun c hc => (padRow_length cols c hc).le) c hc
  · rw [List.eq_of_mem_replicate hc, List.length_replicate]

/-- Whatever the options, a selection's chunks fit its rows. -/
theorem layout_fit (text : List Byte) {sel : BitVec 4} (ell pad : Bool) (cols : Nat) (hs : sel ≠ 0) :
    ∀ c ∈ layout text sel ell pad cols, c.length ≤ cols := by
  have hc := chunksOf_fit cols (rowCount sel) text
  by_cases ht : text = []
  · simp [ht]
  by_cases ho : rowCount sel * cols < text.length
  · rw [layout_overflow hs ell pad ho]
    split
    · exact markOverflow_fit _ hc
    · exact hc
  · rw [layout_fitting hs ell pad ht (Nat.not_lt.mp ho)]
    split
    · exact padRows_fit _ hc
    · exact hc

/-- Settles O57: the rows of the selection, and the width of each chunk. -/
theorem layoutChunksFitRows : Obligations.LayoutChunksFitRows := by
  unfold Obligations.LayoutChunksFitRows
  intro text sel ell pad cols b e _ hb hl he hh
  have hs := ne_zero_of_getLsbD hb
  exact ⟨rowCount_eq hb hl he hh ▸ layout_length_le text sel ell pad cols hs, layout_fit text ell pad cols hs⟩

/-! ### Full rows, and a last one (R173) -/

/-- The number of chunks: as many as the rows or the text allow. -/
theorem chunksOf_length {cols : Nat} (hcols : 1 ≤ cols) (n : Nat) (text : List Byte) :
    (chunksOf cols n text).length = min n ((text.length + cols - 1) / cols) := by
  induction n generalizing text with
  | zero => simp [chunksOf]
  | succ n ih =>
    cases text with
    | nil =>
      have h0 : (cols - 1) / cols = 0 := Nat.div_eq_of_lt (by omega)
      simp [h0]
    | cons x text =>
      have hrest : (text.length + 1 - cols + cols - 1) / cols = text.length / cols := by
        by_cases hlt : text.length + 1 < cols
        · rw [Nat.div_eq_of_lt (a := text.length) (by omega), Nat.div_eq_of_lt (by omega)]
        · congr 1
          omega
      have hall : (text.length + 1 + cols - 1) / cols = text.length / cols + 1 := by
        rw [← Nat.add_div_right _ hcols]
        congr 1
        omega
      rw [chunksOf, List.length_cons, ih, List.length_drop, List.length_cons, hrest, hall, Nat.succ_min_succ]

/-- The chunks of a text are full rows and a last one. -/
structure CutInto (cols n : Nat) (text : List Byte) (full : List (List Byte)) (last : List Byte) : Prop where
  chunks : chunksOf cols n text = full ++ [last]
  full_rows : ∀ c ∈ full, c.length = cols

theorem chunksOf_cut (cols : Nat) {n : Nat} {text : List Byte} (hn : 0 < n) (ht : text ≠ []) :
    ∃ full last, CutInto cols n text full last := by
  induction n generalizing text with
  | zero => cases hn
  | succ n ih =>
    have hx : chunksOf cols (n + 1) text = text.take cols :: chunksOf cols n (text.drop cols) := by
      cases text with
      | nil => exact absurd rfl ht
      | cons x text => rfl
    by_cases hend : n = 0 ∨ text.drop cols = []
    · have h0 : chunksOf cols n (text.drop cols) = [] := by
        rcases hend with rfl | hd
        · rfl
        · rw [hd, chunksOf_nil]
      exact ⟨[], text.take cols, by rw [hx, h0]; rfl, by simp⟩
    · obtain ⟨hn0, hd⟩ := not_or.mp hend
      obtain ⟨full, last, hcut⟩ := ih (Nat.pos_of_ne_zero hn0) hd
      refine ⟨text.take cols :: full, last, by rw [hx, hcut.chunks]; rfl,
        List.forall_mem_cons.mpr ⟨?_, hcut.full_rows⟩⟩
      rw [List.drop_eq_nil_iff, Nat.not_le] at hd
      exact List.length_take_of_le hd.le

namespace CutInto

variable {cols n : Nat} {text last : List Byte} {full : List (List Byte)} (h : CutInto cols n text full last)
include h

theorem flatten_eq : full.flatten ++ last = text.take (n * cols) := by
  rw [← chunksOf_flatten, h.chunks, List.flatten_concat]

theorem flatten_length : full.flatten.length = full.length * cols := by
  rw [List.length_flatten, List.eq_replicate_of_mem (List.forall_mem_map.mpr h.full_rows), List.sum_replicate,
    List.length_map, smul_eq_mul]

theorem last_length_le : last.length ≤ cols :=
  chunksOf_fit cols n text last (by simp [h.chunks])

theorem rows_le : full.length + 1 ≤ n := by
  have hle := chunksOf_length_le cols n text
  rwa [h.chunks, List.length_append] at hle

theorem length_eq : full.length * cols + last.length = min (n * cols) text.length := by
  rw [← h.flatten_length, ← List.length_append, h.flatten_eq, List.length_take]

/-- A text that overflows fills every row. -/
theorem rows_filled (hcols : 1 ≤ cols) (ho : n * cols < text.length) : full.length + 1 = n ∧ last.length = cols := by
  have hlen := h.length_eq
  rw [Nat.min_eq_left ho.le] at hlen
  have hlast := h.last_length_le
  have hrows : n = full.length + 1 := by
    refine Nat.le_antisymm (Nat.le_of_mul_le_mul_right ?_ hcols) h.rows_le
    rw [Nat.succ_mul]
    omega
  refine ⟨hrows.symm, ?_⟩
  rw [hrows, Nat.succ_mul] at hlen
  omega

end CutInto

/-- Changing the last chunk. -/
theorem modify_last_chunk (full : List (List Byte)) (last : List Byte) (f : List Byte → List Byte) :
    (full ++ [last]).modify full.length f = full ++ [f last] := by
  rw [List.modify_eq_take_cons_drop (by simp)]
  simp

/-- Every chunk but the last fills its row. -/
theorem chunksOf_full_before_last {cols n k : Nat} {text : List Byte} (hk : k + 1 < (chunksOf cols n text).length) :
    ∃ c, (chunksOf cols n text)[k]? = some c ∧ c.length = cols := by
  have hn : 0 < n := by have := chunksOf_length_le cols n text; omega
  have ht : text ≠ [] := by rintro rfl; simp at hk
  obtain ⟨full, last, hcut⟩ := chunksOf_cut cols hn ht
  rw [hcut.chunks, List.length_append] at hk
  have hk' : k < full.length := Nat.lt_of_succ_lt_succ hk
  refine ⟨full[k], ?_, hcut.full_rows _ (List.getElem_mem hk')⟩
  rw [hcut.chunks, List.getElem?_append_left hk', List.getElem?_eq_getElem hk']

/-- Settles O58: the cut text joined, counted, and row by row. -/
theorem layoutCutsText : Obligations.LayoutCutsText := by
  unfold Obligations.LayoutCutsText
  intro text sel cols b e hcols hb hl he hh
  rw [layout_plain (ne_zero_of_getLsbD hb), rowCount_eq hb hl he hh]
  exact ⟨chunksOf_flatten .., chunksOf_length hcols .., fun _ => chunksOf_full_before_last⟩

/-! ### Overflow (R174) -/

/-- The last byte of a full row replaced. -/
theorem set_last_cell {cols : Nat} {c : List Byte} (v : Byte) (hcols : 1 ≤ cols) (hc : c.length = cols) :
    c.set (cols - 1) v = c.take (cols - 1) ++ [v] := by
  rw [List.set_eq_take_append_cons_drop, if_pos (by omega), Nat.sub_add_cancel hcols, ← hc, List.drop_length]

theorem CutInto.markOverflow_eq {cols n : Nat} {text last : List Byte} {full : List (List Byte)}
    (h : CutInto cols n text full last) (hcols : 1 ≤ cols) (ho : n * cols < text.length) :
    markOverflow cols n (chunksOf cols n text) = full ++ [last.take (cols - 1) ++ [0x7E]] := by
  obtain ⟨hrows, hlast⟩ := h.rows_filled hcols ho
  rw [markOverflow, h.chunks, ← hrows, Nat.add_sub_cancel, modify_last_chunk, set_last_cell _ hcols hlast]

/-- The marked rows: the text but for its last cell, then the mark, in full rows. -/
theorem markOverflow_rows {cols n : Nat} {text : List Byte} (hcols : 1 ≤ cols) (hn : 0 < n)
    (ho : n * cols < text.length) :
    (markOverflow cols n (chunksOf cols n text)).flatten = text.take (n * cols - 1) ++ [0x7E] ∧
      (markOverflow cols n (chunksOf cols n text)).map List.length = List.replicate n cols := by
  obtain ⟨full, last, hcut⟩ := chunksOf_cut cols hn (List.length_pos_iff.mp (Nat.zero_lt_of_lt ho))
  obtain ⟨hrows, hlast⟩ := hcut.rows_filled hcols ho
  rw [hcut.markOverflow_eq hcols ho]
  constructor
  · have hcells : n * cols - 1 = full.flatten.length + (cols - 1) := by
      rw [hcut.flatten_length, ← hrows, Nat.succ_mul, Nat.add_sub_assoc hcols]
    have htext : text.take (n * cols - 1) = full.flatten ++ last.take (cols - 1) := by
      rw [← List.take_length_add_append, hcut.flatten_eq, List.take_take, hcells, Nat.min_eq_left (by omega)]
    rw [htext, List.flatten_concat, List.append_assoc]
  · have hmarked : (last.take (cols - 1) ++ [0x7E]).length = cols := by
      rw [List.length_append, List.length_take_of_le (by omega)]
      exact Nat.sub_add_cancel hcols
    rw [List.map_append, List.eq_replicate_of_mem (List.forall_mem_map.mpr hcut.full_rows), ← hrows,
      List.replicate_succ', List.length_map, List.map_singleton, hmarked]

/-- Settles O59: the rows marked, or as cut. -/
theorem layoutMarksOverflow : Obligations.LayoutMarksOverflow := by
  unfold Obligations.LayoutMarksOverflow
  intro text sel pad cols b e hcols hb hl he hh ho
  have hs := ne_zero_of_getLsbD hb
  rw [← rowCount_eq hb hl he hh] at ho ⊢
  obtain ⟨hflat, hlens⟩ := markOverflow_rows hcols (rowCount_pos sel) ho
  rw [layout_overflow hs true pad ho, layout_overflow hs false pad ho, layout_plain hs]
  exact ⟨hflat, hlens, rfl, chunksOf_flatten ..⟩

/-! ### Padding (R175) -/

theorem CutInto.padRows_eq {cols n : Nat} {text last : List Byte} {full : List (List Byte)}
    (h : CutInto cols n text full last) :
    padRows cols n (chunksOf cols n text) =
      full ++ [padRow cols last] ++ List.replicate (n - (full.length + 1)) (List.replicate cols 0x20) := by
  rw [padRows, h.chunks, List.length_append, List.length_singleton, Nat.add_sub_cancel, modify_last_chunk]

/-- The padded rows: the text, then spaces, in full rows. -/
theorem padRows_rows {cols n : Nat} {text : List Byte} (hn : 0 < n) (ht : text ≠ []) (hf : text.length ≤ n * cols) :
    (padRows cols n (chunksOf cols n text)).flatten = text ++ List.replicate (n * cols - text.length) 0x20 ∧
      (padRows cols n (chunksOf cols n text)).length = n ∧
      ∀ c ∈ padRows cols n (chunksOf cols n text), c.length = cols := by
  obtain ⟨full, last, hcut⟩ := chunksOf_cut cols hn ht
  have hrows := hcut.rows_le
  have hlast := hcut.last_length_le
  rw [hcut.padRows_eq]
  refine ⟨?_, ?_, fun c hc => ?_⟩
  · have htext : full.flatten ++ last = text := by rw [hcut.flatten_eq, List.take_of_length_le hf]
    have hlen := hcut.length_eq
    rw [Nat.min_eq_right hf] at hlen
    have hcells : n * cols = full.length * cols + cols + (n - (full.length + 1)) * cols := by
      rw [← Nat.succ_mul, ← Nat.add_mul, Nat.succ_eq_add_one, Nat.add_sub_of_le hrows]
    have hspaces : n * cols - text.length = cols - last.length + (n - (full.length + 1)) * cols := by omega
    rw [List.flatten_append, List.flatten_concat, List.flatten_replicate_replicate, padRow, hspaces,
      ← List.replicate_append_replicate, ← List.append_assoc, ← List.append_assoc, htext]
  · rw [List.length_append, List.length_append, List.length_singleton, List.length_replicate]
    exact Nat.add_sub_of_le hrows
  · simp only [List.mem_append, List.mem_singleton] at hc
    rcases hc with (hc | rfl) | hc
    · exact hcut.full_rows c hc
    · exact padRow_length cols last hlast
    · rw [List.eq_of_mem_replicate hc, List.length_replicate]

/-- Settles O60: the rows padded, or as cut. -/
theorem layoutPadsRows : Obligations.LayoutPadsRows := by
  unfold Obligations.LayoutPadsRows
  intro text sel ell cols b e _ hb hl he hh ht hf
  have hs := ne_zero_of_getLsbD hb
  rw [← rowCount_eq hb hl he hh] at hf ⊢
  obtain ⟨hflat, hcount, hlens⟩ := padRows_rows (rowCount_pos sel) ht hf
  rw [layout_fitting hs ell true ht hf, layout_fitting hs true false ht hf, layout_plain hs]
  exact ⟨hflat, hcount, hlens, rfl⟩

end Sys2Proof.Machine
end

section
/-! The text requests, every Tx answered Ok (R179, R180), and SHOW_TEXT outside the geometry (R181). -/

namespace Sys2Proof.Machine

/-- Settles O37: the bytes' micro-ops, and their events. -/
theorem printCompletes : Obligations.PrintCompletes := by
  unfold Obligations.PrintCompletes
  intro data s rest ha hok
  rw [← opTxCount_dataOps s.timing] at hok
  rw [← opEvents_dataOps]
  exact exec_sends_ok (ops := fun t => dataOps t data) rfl ha hok

/-! ### The three answers of SHOW_TEXT -/

theorem exec_showText (sel : BitVec 4) (ell pad : Bool) (text : List Byte) (s : State) :
    exec (.showText sel ell pad text) s = execShowText sel ell pad text s := rfl

/-- Without a selection SHOW_TEXT is PRINT (R177). -/
theorem exec_showText_unselected (ell pad : Bool) (text : List Byte) (s : State) :
    exec (.showText 0 ell pad text) s = exec (.print text) s := by
  have hx : exec (.print text) s = execPrint text s := rfl
  rw [exec_showText, hx, execShowText, execPrint]
  rfl

section
variable {sel : BitVec 4} (ell pad : Bool) (text : List Byte) {s : State} (ha : Accepts s) (hs : sel ≠ 0)
include ha hs

/-- The last selected row is outside the geometry: OPT_CLAMP does not apply (R181). -/
theorem exec_showText_outside (he : s.geomRows.toNat ≤ endRow sel) :
    exec (.showText sel ell pad text) s =
      .next (answered s (.invalidPosition (BitVec.ofNat 8 (endRow sel)) 0 s.geomRows s.geomCols)) := by
  rw [exec_showText, execShowText, acceptReady_ready _ _ ha, if_neg hs, if_pos he]
  exact congrArg _ (endRequest_accepted _ ha.1)

/-- The selection is inside the geometry: each chunk at column 0 of its row (R180). -/
theorem exec_showText_inside (he : endRow sel < s.geomRows.toNat) :
    exec (.showText sel ell pad text) s =
      .next (perform .plain (chunkOps s.timing (startRow sel) (layout text sel ell pad s.geomCols.toNat))
        { s with trace := [], result := none }) := by
  rw [exec_showText, execShowText, acceptReady_ready _ _ ha, if_neg hs, if_neg (Nat.not_le.mpr he)]

end

/-- Settles O18: the row range is checked before anything is sent. -/
theorem showTextOutsideGeometry : Obligations.ShowTextOutsideGeometry := by
  unfold Obligations.ShowTextOutsideGeometry
  intro sel ell pad text s e ha he hh hout
  obtain ⟨hend, -⟩ := endRow_eq he hh
  rw [← hend] at hout ⊢
  exact exec_showText_outside ell pad text ha (ne_zero_of_getLsbD he) hout

/-! ### Chunks at column 0 of their rows (R180, R83) -/

/-- The address command of a row's first cell. -/
theorem ddAddr_column_zero {row : Nat} (h : row < 256) : ddAddr (BitVec.ofNat 8 row) 0 = rowOff row &&& 0x7F := by
  rw [ddAddr, BitVec.toNat_ofNat, Nat.mod_eq_of_lt h]
  simp

/-- Rows that a byte can number: the micro-ops of chunks have the events that the claims speak of. -/
theorem opEvents_chunkOps (s : State) {row : Nat} {chunks : List (List Byte)} (h : row + chunks.length ≤ 256) :
    opEvents s.devAddr s.bl (chunkOps s.timing row chunks) = chunkEvents s row chunks := by
  induction chunks generalizing row with
  | nil => rfl
  | cons chunk chunks ih =>
    rw [List.length_cons] at h
    rw [chunkOps, opEvents_append, opEvents_append, opEvents_dataOps, ih (by omega), cursorOps, opEvents_byteOps,
      ddAddr_column_zero (by omega)]
    rfl

/-- A selection's chunks go to rows of ROWOFF's table (R31). -/
theorem startRow_add_layout_length_le (text : List Byte) {sel : BitVec 4} (ell pad : Bool) (cols : Nat) (hs : sel ≠ 0) :
    startRow sel + (layout text sel ell pad cols).length ≤ 4 := by
  have hlen := layout_length_le text sel ell pad cols hs
  have hrows := startRow_add_rowCount sel hs
  have hend := endRow_lt (n := 4) hs fun j hj => BitVec.getLsbD_of_ge sel j hj
  omega

/-- SHOW_TEXT with a selection inside the geometry, every Tx answered Ok. -/
theorem exec_showText_selected {sel : BitVec 4} (ell pad : Bool) (text : List Byte) {s : State} {rest : List Answer}
    {b : Nat} (ha : Accepts s) (hb : sel.getLsbD b = true) (hl : ∀ j, j < b → sel.getLsbD j = false)
    (hg : ∀ j, s.geomRows.toNat ≤ j → sel.getLsbD j = false)
    (hok : AnswersOk (txCount (chunkEvents s b (layout text sel ell pad s.geomCols.toNat))) rest s) :
    exec (.showText sel ell pad text) s =
      .next (sentOk s (chunkEvents s b (layout text sel ell pad s.geomCols.toNat)) rest) := by
  have hs := ne_zero_of_getLsbD hb
  have hrows := startRow_add_layout_length_le text ell pad s.geomCols.toNat hs
  rw [exec_showText_inside ell pad text ha hs (endRow_lt hs hg)]
  rw [← (startRow_eq hb hl).1] at hok ⊢
  rw [← opEvents_chunkOps s (by omega), txCount, length_sentBytes_opEvents] at hok
  rw [← opEvents_chunkOps s (by omega)]
  exact congrArg _ (perform_sentOk _ s rest hok ha.1)

/-- Settles O38: PRINT's answer, or the chunks'. -/
theorem showTextCompletes : Obligations.ShowTextCompletes := by
  unfold Obligations.ShowTextCompletes
  intro ell pad text s rest ha
  refine ⟨fun hok => ?_, fun sel b hb hl hg hok => exec_showText_selected ell pad text ha hb hl hg hok⟩
  rw [exec_showText_unselected]
  exact printCompletes text s rest ha hok

end Sys2Proof.Machine
end

section
/-! Data bytes to a controller in step: each is stored at the address counter, which moves as I/D says (R212, R217). -/

namespace Sys2Proof.Machine

/-! ### A data byte (R217) -/

@[simp] theorem decodeWord_data (d : Byte) : decodeWord (ctrlWord true d) = .writeData d := by
  revert d; decide

/-- A trusted data word is written where the current region and the address counter say. -/
theorem lcdDeliver_data (d : Byte) (l : Lcd) :
    lcdDeliver (ctrlWord true d) false true l =
      { obs := { l.obs with words := l.obs.words ++ [.full (ctrlWord true d) false] },
        panel := panelWrite l.obs.region d l.panel } := by
  rw [lcdDeliver, decodeWord_data]
  rfl

/-- The controller is in step and its words are trusted. -/
abbrev Follows (l : Lcd) : Prop := InStep l ∧ l.panel.framed = true

/-- Data bytes written one after another. -/
def writeAll (r : Region) (data : List Byte) (p : Panel) : Panel := data.foldl (fun p d => panelWrite r d p) p

@[simp] theorem writeAll_nil (r : Region) (p : Panel) : writeAll r [] p = p := rfl

@[simp] theorem writeAll_cons (r : Region) (d : Byte) (data : List Byte) (p : Panel) :
    writeAll r (d :: data) p = writeAll r data (panelWrite r d p) := rfl

/-- One byte's transactions: the write, and the controller is as ready as before. -/
theorem observeAll_dataByte (bl : Bool) (d : Byte) {l : Lcd} (h : Follows l) :
    Follows (observeAll (byteBytes bl d true) l) ∧ (observeAll (byteBytes bl d true) l).obs.region = l.obs.region ∧
      (observeAll (byteBytes bl d true) l).panel = panelWrite l.obs.region d l.panel := by
  obtain ⟨hstep, hf⟩ := h
  rw [observeAll_byteBytes bl d true hstep, hf, lcdDeliver_data]
  exact ⟨⟨hstep, (panelWrite_framed ..).trans hf⟩, rfl, rfl⟩

theorem sentBytes_dataEvents_cons (s : State) (d : Byte) (data : List Byte) :
    sentBytes (dataEvents s (d :: data)) = byteBytes s.bl d true ++ sentBytes (dataEvents s data) := by
  rw [← sentBytes_byteEvents, ← sentBytes_append]
  rfl

/-- The transactions of data bytes are their writes. -/
theorem observeAll_data (s : State) (data : List Byte) {l : Lcd} (h : Follows l) :
    Follows (observeAll (sentBytes (dataEvents s data)) l) ∧
      (observeAll (sentBytes (dataEvents s data)) l).obs.region = l.obs.region ∧
      (observeAll (sentBytes (dataEvents s data)) l).panel = writeAll l.obs.region data l.panel := by
  induction data generalizing l with
  | nil => exact ⟨h, rfl, rfl⟩
  | cons d data ih =>
    obtain ⟨hd, hregion, hpanel⟩ := observeAll_dataByte s.bl d h
    rw [sentBytes_dataEvents_cons, observeAll_append, writeAll_cons, ← hpanel, ← hregion]
    exact ih hd

/-! ### What one write does to the registers that place the next -/

@[simp] theorem panelShift_ac (p : Panel) : (panelShift p).ac = p.ac := by
  unfold panelShift; split <;> rfl

@[simp] theorem panelStore_ac (r : Region) (d : Byte) (p : Panel) : (panelStore r d p).ac = p.ac := by
  unfold panelStore; repeat' split
  all_goals rfl

@[simp] theorem panelStore_inc (r : Region) (d : Byte) (p : Panel) : (panelStore r d p).inc = p.inc := by
  unfold panelStore; repeat' split
  all_goals rfl

@[simp] theorem panelWrite_inc (r : Region) (d : Byte) (p : Panel) : (panelWrite r d p).inc = p.inc := by
  have hshift : ∀ q : Panel, (panelShift q).inc = q.inc := fun q => by unfold panelShift; split <;> rfl
  have hadvance : ∀ q : Panel, (panelAdvance r q).inc = q.inc := fun q => by
    unfold panelAdvance; repeat' split
    all_goals rfl
  rw [panelWrite, hshift, hadvance, panelStore_inc]

@[simp] theorem writeAll_inc (r : Region) (data : List Byte) (p : Panel) : (writeAll r data p).inc = p.inc := by
  induction data generalizing p with
  | nil => rfl
  | cons d data ih => rw [writeAll_cons, ih, panelWrite_inc]

/-- The counter moves by one as I/D says, where that stays inside the memory (R212). -/
theorem panelAdvance_ac {r : Region} {p : Panel} (h : CellsFit r p.inc p.ac.toNat 2) :
    (panelAdvance r p).ac.toNat = cellAddr p.inc p.ac.toNat 1 := by
  obtain ⟨-, hac, hfit⟩ := h
  have hcount : addressCount r ≤ 128 := by cases r <;> decide
  cases hi : p.inc with
  | true =>
    have hlt : p.ac.toNat + 1 < addressCount r := by simp only [hi, if_true] at hfit; omega
    simp only [panelAdvance, hi, if_true, hlt, cellAddr]
    bv_omega
  | false =>
    have hpos : 0 < p.ac.toNat := by simp [hi] at hfit; omega
    simp only [panelAdvance, hi, Bool.false_eq_true, if_false, hpos, hac, and_self, if_true, cellAddr]
    bv_omega

theorem panelWrite_ac {r : Region} (d : Byte) {p : Panel} (h : CellsFit r p.inc p.ac.toNat 2) :
    (panelWrite r d p).ac.toNat = cellAddr p.inc p.ac.toNat 1 := by
  rw [panelWrite, panelShift_ac, panelAdvance_ac (by simpa using h), panelStore_inc, panelStore_ac]

/-! ### The cells of a run of bytes -/

/-- After one byte of a run, the rest fits from the next cell on. -/
theorem CellsFit.tail {r : Region} {inc : Bool} {a n : Nat} (h : CellsFit r inc a (n + 2)) :
    CellsFit r inc (cellAddr inc a 1) (n + 1) := by
  obtain ⟨hr, ha, hfit⟩ := h
  refine ⟨hr, ?_⟩
  cases inc <;> simp only [cellAddr, Bool.false_eq_true, if_false, if_true] at hfit ⊢ <;> omega

theorem CellsFit.le {r : Region} {inc : Bool} {a m n : Nat} (h : CellsFit r inc a n) (hm : m ≤ n) :
    CellsFit r inc a m := by
  obtain ⟨hr, ha, hfit⟩ := h
  refine ⟨hr, ha, ?_⟩
  cases inc <;> simp only [Bool.false_eq_true, if_false, if_true] at hfit ⊢ <;> omega

theorem cellAddr_succ (inc : Bool) (a k : Nat) : cellAddr inc (cellAddr inc a 1) k = cellAddr inc a (k + 1) := by
  cases inc <;> simp only [cellAddr, Bool.false_eq_true, if_false, if_true] <;> omega

/-- The first cell is none of the later ones. -/
theorem cellAddr_ne {r : Region} {inc : Bool} {a n k : Nat} (h : CellsFit r inc a n) (hk : k + 1 < n) :
    a ≠ cellAddr inc a (k + 1) := by
  obtain ⟨-, -, hfit⟩ := h
  cases inc <;> simp only [cellAddr, Bool.false_eq_true, if_false, if_true] at hfit ⊢ <;> omega

/-! ### Where a run of bytes lands (R217) -/

theorem StoresData.nil (r : Region) (inc : Bool) (a : Nat) (p : Panel) : StoresData r inc a [] p p :=
  ⟨fun _ hk => absurd hk (Nat.not_lt_zero _), fun _ _ => rfl, fun _ => rfl, fun _ => rfl⟩

/-- One byte where it fits, unless an upload's pointer sends it into CGRAM. -/
theorem regionMemory_panelWrite {r : Region} (d : Byte) {p : Panel} (hr : r ≠ .unknown)
    (ha : p.ac.toNat < addressCount r) (hu : r = .cgram → p.uploaded = false) :
    regionMemory r (panelWrite r d p) = Memory.write p.ac.toNat d (regionMemory r p) ∧
      (r = .ddram → (panelWrite r d p).cgram = p.cgram) ∧ (r = .cgram → (panelWrite r d p).ddram = p.ddram) := by
  obtain ⟨hd, hc⟩ := panelWrite_memories r d p
  cases r with
  | ddram => exact ⟨hd, fun _ => hc, nofun⟩
  | cgram =>
    have ha' : p.ac.toNat < 64 := ha
    simp only [panelStore, hu rfl, Bool.false_eq_true, if_false, ha', if_true] at hc hd
    exact ⟨hc, nofun, fun _ => hd⟩
  | unknown => exact absurd rfl hr

/-- A byte and then the rest of the run. -/
theorem StoresData.cons {r : Region} {inc : Bool} {a : Nat} {d : Byte} {data : List Byte} {p q t : Panel}
    (hfit : CellsFit r inc a (data.length + 1))
    (hmem : regionMemory r q = Memory.write a d (regionMemory r p))
    (hc : r = .ddram → q.cgram = p.cgram) (hd : r = .cgram → q.ddram = p.ddram)
    (h : StoresData r inc (cellAddr inc a 1) data q t) : StoresData r inc a (d :: data) p t := by
  obtain ⟨hcells, hother, htc, htd⟩ := h
  have hzero : cellAddr inc a 0 = a := by cases inc <;> rfl
  refine ⟨fun k hk => ?_, fun x hx => ?_, fun hr => (htc hr).trans (hc hr), fun hr => (htd hr).trans (hd hr)⟩
  · cases k with
    | zero =>
      rw [hzero, hother a fun k hk => cellAddr_succ inc a k ▸ cellAddr_ne hfit (Nat.succ_lt_succ hk), hmem,
        Memory.read_write_same]
      rfl
    | succ k =>
      rw [← cellAddr_succ, hcells k (Nat.lt_of_succ_lt_succ hk)]
      rfl
  · rw [hother x fun k hk => cellAddr_succ inc a k ▸ hx (k + 1) (Nat.succ_lt_succ hk), hmem,
      Memory.read_write_other _ _ _ _ (hzero ▸ hx 0 (Nat.succ_pos _))]

/-- A run of bytes lands from the address counter on, in the direction of I/D. -/
theorem storesData_writeAll {r : Region} {data : List Byte} {p : Panel}
    (hfit : data ≠ [] → CellsFit r p.inc p.ac.toNat data.length)
    (hu : r = .cgram → p.uploaded = false ∨ data = []) :
    StoresData r p.inc p.ac.toNat data p (writeAll r data p) := by
  induction data generalizing p with
  | nil => exact .nil ..
  | cons d data ih =>
    have hall := hfit (by simp)
    have hup : r = .cgram → p.uploaded = false := fun hr => (hu hr).resolve_right (by simp)
    obtain ⟨hmem, hc, hd⟩ := regionMemory_panelWrite d hall.1 hall.2.1 hup
    refine .cons hall hmem hc hd ?_
    cases data with
    | nil => exact .nil ..
    | cons d' data =>
      have hac := panelWrite_ac d (hall.le (Nat.le_add_left 2 data.length))
      have hrest := ih (p := panelWrite r d p) (fun _ => by rw [panelWrite_inc, hac]; exact hall.tail)
        fun hr => .inl ((panelWrite_uploaded ..).trans (hup hr))
      rwa [panelWrite_inc, hac] at hrest

/-- Where an upload left the pointer, bytes leave DDRAM and nothing is known of CGRAM (U7). -/
theorem writeAll_uploaded {data : List Byte} {p : Panel} (hu : p.uploaded = true) (hne : data ≠ []) :
    (writeAll .cgram data p).ddram = p.ddram ∧ (writeAll .cgram data p).cgram = [] := by
  induction data generalizing p with
  | nil => exact absurd rfl hne
  | cons d data ih =>
    obtain ⟨hd, hc⟩ := panelWrite_memories .cgram d p
    simp only [panelStore, hu, if_true] at hd hc
    cases data with
    | nil => exact ⟨hd, hc⟩
    | cons d' data =>
      obtain ⟨hd', hc'⟩ := ih (p := panelWrite .cgram d p) ((panelWrite_uploaded ..).trans hu) (by simp)
      exact ⟨hd'.trans hd, hc'⟩

/-- Settles O47: the three requests send the same bytes, and the controller writes them one after another. -/
theorem printStoresText : Obligations.PrintStoresText := by
  unfold Obligations.PrintStoresText
  intro data s rest ha hok hstep hf
  obtain ⟨⟨hstep', -⟩, -, hpanel⟩ := observeAll_data s data ⟨hstep, hf⟩
  refine ⟨_, printCompletes data s rest ha hok, fun ell pad => ?_, ?_, hstep', fun hfit hu => ?_, fun hr hup hne => ?_⟩
  · rw [exec_showText_unselected, printCompletes data s rest ha hok]
  · rintro d rfl
    have hevents : dataEvents s [d] = byteEvents s d true := List.append_nil _
    rw [hevents]
    exact exec_writeByte_ok true d ha hok
  · rw [sentOk_lcd, hpanel]
    exact storesData_writeAll (fun _ => hfit) fun hr => hu.resolve_left (absurd hr)
  · rw [sentOk_lcd, hpanel, hr]
    obtain ⟨hd, hc⟩ := writeAll_uploaded hup hne
    exact ⟨hd, fun a => by rw [hc]; rfl⟩

end Sys2Proof.Machine
end

section
/-! SHOW_TEXT with a selection, to a controller in step that writes left to right: each chunk lands in its row's cells
(R180, R31, R216). -/

namespace Sys2Proof.Machine

/-! ### A row's cells (R31) -/

/-- The address word of a row's first cell (R83). -/
theorem decodeWord_rowStart (row : Nat) :
    decodeWord (ctrlWord false (0x80 ||| (rowOff row &&& 0x7F))) = .setDdramAddr ((rowOff row).extractLsb' 0 7) := by
  unfold rowOff
  split <;> rfl

theorem rowOff_address (row : Nat) : ((rowOff row).extractLsb' 0 7).toNat = (rowOff row).toNat := by
  unfold rowOff
  split <;> rfl

/-- A row of at most 20 cells fits in DDRAM, left to right. -/
theorem cellsFit_row {row n : Nat} (hn : n ≤ 20) : CellsFit .ddram true (rowOff row).toNat n := by
  have hoff : (rowOff row).toNat ≤ 0x54 := by unfold rowOff; split <;> decide
  refine ⟨by decide, ?_, ?_⟩ <;> simp only [addressCount, if_true] <;> omega

/-- No cell belongs to two rows. -/
theorem rowOff_disjoint {row row' j j' : Nat} (hr : row < row') (hr' : row' < 4) (hj : j < 20) (hj' : j' < 20) :
    (rowOff row).toNat + j ≠ (rowOff row').toNat + j' := by
  have hgap : ∀ a < 4, ∀ b < 4, a ≠ b →
      (rowOff a).toNat + 20 ≤ (rowOff b).toNat ∨ (rowOff b).toNat + 20 ≤ (rowOff a).toNat := by decide
  have := hgap row (by omega) row' hr' hr.ne
  omega

/-! ### One chunk -/

/-- The controller is in step, its words are trusted, and its data goes to DDRAM left to right. -/
abbrev WritesRows (l : Lcd) : Prop := Follows l ∧ l.panel.inc = true

/-- The address word of a row to a controller in step. -/
theorem observeAll_rowStart (bl : Bool) (row : Nat) {l : Lcd} (h : Follows l) :
    Follows (observeAll (byteBytes bl (0x80 ||| (rowOff row &&& 0x7F)) false) l) ∧
      (observeAll (byteBytes bl (0x80 ||| (rowOff row &&& 0x7F)) false) l).obs.region = .ddram ∧
      (observeAll (byteBytes bl (0x80 ||| (rowOff row &&& 0x7F)) false) l).panel =
        panelAddress ((rowOff row).extractLsb' 0 7) l.panel := by
  rw [observeAll_command bl _ h.1 h.2, lcdDeliver, decodeWord_rowStart]
  exact ⟨h, rfl, rfl⟩

/-- The address word of a row, then the bytes of a chunk. -/
theorem observeAll_chunk (s : State) (row : Nat) {chunk : List Byte} {l : Lcd} (h : WritesRows l)
    (hc : chunk.length ≤ 20) :
    let l' := observeAll (byteBytes s.bl (0x80 ||| (rowOff row &&& 0x7F)) false ++ sentBytes (dataEvents s chunk)) l
    WritesRows l' ∧ StoresData .ddram true (rowOff row).toNat chunk l.panel l'.panel := by
  obtain ⟨hfollow, hinc⟩ := h
  obtain ⟨hstart, hregion, hpanel⟩ := observeAll_rowStart s.bl row hfollow
  obtain ⟨hdata, -, hwritten⟩ := observeAll_data s chunk hstart
  have hfit : CellsFit .ddram (panelAddress ((rowOff row).extractLsb' 0 7) l.panel).inc
      (panelAddress ((rowOff row).extractLsb' 0 7) l.panel).ac.toNat chunk.length := by
    have hrow := cellsFit_row (row := row) hc
    rwa [← hinc, ← rowOff_address] at hrow
  have hstores := storesData_writeAll (fun _ => hfit) nofun
  rw [hregion, hpanel] at hwritten
  dsimp only
  rw [observeAll_append, hwritten, ← rowOff_address row]
  refine ⟨⟨hdata, ?_⟩, ?_⟩
  · rw [hwritten, writeAll_inc]
    exact hinc
  · rw [← hinc]
    exact hstores

/-! ### The chunks of a selection -/

/-- Row `row + k` holds the chunk number `k` from column 0 on, and every other byte of both memories is as in `p`. -/
structure StoresRows (row : Nat) (chunks : List (List Byte)) (p q : Panel) : Prop where
  cells : ∀ k c j, chunks[k]? = some c → j < c.length →
    Memory.read q.ddram ((rowOff (row + k)).toNat + j) = some (c.getD j 0)
  other : ∀ a, (∀ k c j, chunks[k]? = some c → j < c.length → a ≠ (rowOff (row + k)).toNat + j) →
    Memory.read q.ddram a = Memory.read p.ddram a
  cgram : q.cgram = p.cgram

theorem StoresRows.nil (row : Nat) (p : Panel) : StoresRows row [] p p :=
  ⟨fun _ _ _ hk => by simp at hk, fun _ _ => rfl, rfl⟩

/-- A row, and then the rows below it. -/
theorem StoresRows.cons {row : Nat} {chunk : List Byte} {chunks : List (List Byte)} {p q t : Panel}
    (hrow : row + (chunks.length + 1) ≤ 4) (hfit : ∀ c ∈ chunk :: chunks, c.length ≤ 20)
    (hfirst : StoresData .ddram true (rowOff row).toNat chunk p q) (hrest : StoresRows (row + 1) chunks q t) :
    StoresRows row (chunk :: chunks) p t := by
  obtain ⟨hcells, hother, hcgram, -⟩ := hfirst
  have hbelow : ∀ k, row + 1 + k = row + (k + 1) := fun k => by omega
  refine ⟨fun k c j hk hj => ?_, fun a ha => ?_, hrest.cgram.trans (hcgram rfl)⟩
  · cases k with
    | zero =>
      obtain rfl : chunk = c := by simpa using hk
      have hdisjoint : ∀ k c' j', chunks[k]? = some c' → j' < c'.length →
          (rowOff row).toNat + j ≠ (rowOff (row + 1 + k)).toNat + j' := by
        intro k c' j' hk' hj'
        obtain ⟨hlt, rfl⟩ := List.getElem?_eq_some_iff.mp hk'
        have hc := hfit chunk List.mem_cons_self
        have hc' := hfit chunks[k] (List.mem_cons_of_mem _ (List.getElem_mem hlt))
        exact rowOff_disjoint (by omega) (by omega) (by omega) (by omega)
      exact (hrest.other _ hdisjoint).trans ((hcells j hj).trans (by simp [hj]))
    | succ k => exact hbelow k ▸ hrest.cells k c j hk hj
  · refine (hrest.other a fun k c j hk hj => hbelow k ▸ ha (k + 1) c j hk hj).trans ?_
    exact hother a fun j hj => ha 0 chunk j rfl hj

theorem sentBytes_chunkEvents_cons (s : State) (row : Nat) (chunk : List Byte) (chunks : List (List Byte)) :
    sentBytes (chunkEvents s row (chunk :: chunks)) =
      (byteBytes s.bl (0x80 ||| (rowOff row &&& 0x7F)) false ++ sentBytes (dataEvents s chunk)) ++
        sentBytes (chunkEvents s (row + 1) chunks) := by
  rw [← sentBytes_byteEvents, ← sentBytes_append, ← sentBytes_append]
  rfl

/-- The transactions of chunks fill their rows. -/
theorem observeAll_chunks (s : State) {row : Nat} {chunks : List (List Byte)} {l : Lcd} (h : WritesRows l)
    (hrow : row + chunks.length ≤ 4) (hfit : ∀ c ∈ chunks, c.length ≤ 20) :
    WritesRows (observeAll (sentBytes (chunkEvents s row chunks)) l) ∧
      StoresRows row chunks l.panel (observeAll (sentBytes (chunkEvents s row chunks)) l).panel := by
  induction chunks generalizing row l with
  | nil => exact ⟨h, .nil row l.panel⟩
  | cons chunk chunks ih =>
    obtain ⟨hc, hcs⟩ := List.forall_mem_cons.mp hfit
    obtain ⟨hfirst, hstored⟩ := observeAll_chunk s row h hc
    rw [List.length_cons] at hrow
    rw [sentBytes_chunkEvents_cons, observeAll_append]
    obtain ⟨hlast, hrest⟩ := ih hfirst (row := row + 1) (by omega) hcs
    exact ⟨hlast, .cons hrow hfit hstored hrest⟩

/-- Settles O49: the layout's chunks are at most four rows of at most 20 cells. -/
theorem showTextStoresRows : Obligations.ShowTextStoresRows := by
  unfold Obligations.ShowTextStoresRows
  intro sel ell pad text s rest b ha hstep hf hinc hb hl hg hcols hok
  have hs := ne_zero_of_getLsbD hb
  have hrows := startRow_add_layout_length_le text ell pad s.geomCols.toNat hs
  rw [(startRow_eq hb hl).1] at hrows
  have hfit : ∀ c ∈ layout text sel ell pad s.geomCols.toNat, c.length ≤ 20 :=
    fun c hc => (layout_fit text ell pad _ hs c hc).trans hcols
  obtain ⟨⟨⟨hstep', -⟩, -⟩, hstored⟩ := observeAll_chunks s (l := s.lcd) ⟨⟨hstep, hf⟩, hinc⟩ hrows hfit
  exact ⟨_, exec_showText_selected ell pad text ha hb hl hg hok, hstep', hstored.cgram, hstored.cells, hstored.other⟩

end Sys2Proof.Machine
end

section
/-! The character generator's request, every Tx answered Ok (R200 to R205): its completion, and to a controller in step
the cells of CGRAM its bitmap lands in. -/

namespace Sys2Proof.Machine

/-! ### The answer of UPLOAD_GLYPH -/

/-- An upload's end marks the pointer (R203), and forgets the spilled rows after 11 bytes (R205). -/
theorem lcdEnding_glyphEnding (slot : BitVec 7) (bitmap : List Byte) (l : Lcd) :
    lcdEnding (glyphEnding slot bitmap) l =
      { l with panel := { l.panel with
        cgram :=
          if bitmap.length = 11 then Memory.forget (isSpillCell (slot.extractLsb' 0 3)) l.panel.cgram
          else l.panel.cgram
        uploaded := true } } := by
  rw [glyphEnding, lcdEnding, panelUploaded]
  by_cases hlong : bitmap.length = 11
  · simp only [hlong, decide_true, if_true, panelSpill]
  · simp only [hlong, decide_false, Bool.false_eq_true, if_false]

/-- Settles O39: the slot's address and the bitmap, then the upload's end. -/
theorem uploadGlyphCompletes : Obligations.UploadGlyphCompletes := by
  unfold Obligations.UploadGlyphCompletes
  intro slot bitmap s rest ha hok t
  have hx : exec (.uploadGlyph slot bitmap) s = execUploadGlyph slot bitmap s := rfl
  have hops : AnswersOk
      (opTxCount (byteOps s.timing (cgramCommand (cgAddr slot)) false ++ dataOps s.timing bitmap)) rest s := by
    rwa [opTxCount_append, opTxCount_byteOps, opTxCount_dataOps]
  rw [hx, execUploadGlyph, acceptReady_ready _ _ ha, perform_ending_ok _ _ s rest hops ha.1, lcdEnding_glyphEnding,
    opEvents_append, opEvents_byteOps, opEvents_dataOps]
  rfl

/-! ### The cells of a slot (R84) -/

/-- The address word of a slot (R81, R84). -/
theorem decodeWord_slotStart (slot : BitVec 7) :
    decodeWord (ctrlWord false (cgramCommand (cgAddr slot))) = .setCgramAddr ((cgAddr slot).extractLsb' 0 6) := by
  revert slot; decide

theorem cgAddr_address (slot : BitVec 7) :
    (BitVec.zeroExtend 7 ((cgAddr slot).extractLsb' 0 6)).toNat = 8 * (slot.toNat % 8) := by
  revert slot; decide

/-- Rows 0 to 2 of the slot after `slot`, slot 0 after slot 7 (R205). -/
theorem isSpillCell_iff (slot : BitVec 7) (a : Nat) :
    isSpillCell (slot.extractLsb' 0 3) a = true ↔ a / 8 = (slot.toNat % 8 + 1) % 8 ∧ a % 8 < 3 := by
  simp [isSpillCell]

/-- A cell of CGRAM after an upload's end: lost where 11 bytes spilled, and as the bytes left it elsewhere. -/
theorem read_cgram_glyphEnding (slot : BitVec 7) (bitmap : List Byte) (l : Lcd) (a : Nat) :
    Memory.read (lcdEnding (glyphEnding slot bitmap) l).panel.cgram a =
      if bitmap.length = 11 ∧ a / 8 = (slot.toNat % 8 + 1) % 8 ∧ a % 8 < 3 then none
      else Memory.read l.panel.cgram a := by
  rw [lcdEnding_glyphEnding]
  by_cases hlong : bitmap.length = 11
  · simp only [hlong, if_true, Memory.read_forget, isSpillCell_iff, true_and]
  · simp only [hlong, if_false, false_and]

/-! ### The bitmap's bytes (R200, R215, R217) -/

/-- The address word of a slot to a controller in step. -/
theorem observeAll_slotStart (bl : Bool) (slot : BitVec 7) {l : Lcd} (h : Follows l) :
    Follows (observeAll (byteBytes bl (cgramCommand (cgAddr slot)) false) l) ∧
      (observeAll (byteBytes bl (cgramCommand (cgAddr slot)) false) l).obs.region = .cgram ∧
      (observeAll (byteBytes bl (cgramCommand (cgAddr slot)) false) l).panel =
        panelAddress (BitVec.zeroExtend 7 ((cgAddr slot).extractLsb' 0 6)) l.panel := by
  rw [observeAll_command bl _ h.1 h.2, lcdDeliver, decodeWord_slotStart]
  exact ⟨h, rfl, rfl⟩

/-- The address word of a slot, then the bytes of a bitmap that fits from there on. -/
theorem observeAll_glyph (s : State) (slot : BitVec 7) (bitmap : List Byte) {l : Lcd} (h : Follows l)
    (hfit : CellsFit .cgram l.panel.inc (8 * (slot.toNat % 8)) bitmap.length) :
    let l' := observeAll (sentBytes (byteEvents s (cgramCommand (cgAddr slot)) false ++ dataEvents s bitmap)) l
    InStep l' ∧ l'.obs.region = .cgram ∧
      StoresData .cgram l.panel.inc (8 * (slot.toNat % 8)) bitmap l.panel l'.panel := by
  obtain ⟨hstart, hregion, hpanel⟩ := observeAll_slotStart s.bl slot h
  obtain ⟨⟨hstep, -⟩, hregion', hwritten⟩ := observeAll_data s bitmap hstart
  rw [hregion] at hregion' hwritten
  rw [hpanel] at hwritten
  rw [← cgAddr_address] at hfit ⊢
  rw [sentBytes_append, sentBytes_byteEvents, observeAll_append]
  refine ⟨hstep, hregion', ?_⟩
  rw [hwritten]
  exact storesData_writeAll (p := panelAddress _ l.panel) (fun _ => hfit) fun _ => .inl rfl

/-- Settles O48: the bitmap is stored, and then the upload's end forgets the spilled rows. -/
theorem uploadGlyphStoresBitmap : Obligations.UploadGlyphStoresBitmap := by
  unfold Obligations.UploadGlyphStoresBitmap
  intro slot bitmap s rest ha hok hstep hf base spilled hfit
  obtain ⟨hstep', hregion, hstores⟩ := observeAll_glyph s slot bitmap ⟨hstep, hf⟩ hfit
  obtain ⟨hcells, hother, -, hddram⟩ := hstores
  have hread := read_cgram_glyphEnding slot bitmap
    (observeAll (sentBytes (byteEvents s (cgramCommand (cgAddr slot)) false ++ dataEvents s bitmap)) s.lcd)
  rw [lcdEnding_glyphEnding] at hread
  have hkept := fun a (hs : ¬ spilled a) => (hread a).trans (if_neg hs)
  refine ⟨_, uploadGlyphCompletes slot bitmap s rest ha hok, hstep', hregion, hddram rfl, rfl, fun hlong => ?_,
    fun a hs => (hread a).trans (if_pos hs), fun k hk hs => (hkept _ hs).trans (hcells k hk),
    fun a hs hne => (hkept a hs).trans (hother a hne)⟩
  have hnone : ∀ a, ¬ spilled a := fun a hs => hlong hs.1
  exact ⟨fun k hk => (hkept _ (hnone _)).trans (hcells k hk),
    fun a hne => (hkept a (hnone a)).trans (hother a hne), nofun, hddram⟩

end Sys2Proof.Machine
end

section
/-! What the command words do to the controller, delivered whole: the address and mode words (R210 to R213, R215, R216)
and FUNCTION_SET (R214). -/

namespace Sys2Proof.Machine

/-! ### The words of the address and mode commands (R80, R81) -/

theorem wordOf_entryModeSet (inc shift : Bool) :
    wordOf (.entryModeSet inc shift) = ctrlWord false (0x04 ||| (bitByte inc <<< 1) ||| bitByte shift) := by
  revert inc shift; decide

theorem wordOf_displayControl (d c b : Bool) :
    wordOf (.displayControl d c b) =
      ctrlWord false (0x08 ||| (bitByte d <<< 2) ||| (bitByte c <<< 1) ||| bitByte b) := by
  revert d c b; decide

theorem wordOf_setCgramAddr (a : BitVec 6) : wordOf (.setCgramAddr a) = 0x040 ||| BitVec.zeroExtend 9 a := by
  revert a; decide

theorem wordOf_setDdramAddr (a : BitVec 7) : wordOf (.setDdramAddr a) = 0x080 ||| BitVec.zeroExtend 9 a := by
  revert a; decide

/-- Settles O51: each word is recorded and applied; only CLEAR_DISPLAY's fill is read back. -/
theorem addressAndModeWordsAct : Obligations.AddressAndModeWordsAct := by
  unfold Obligations.AddressAndModeWordsAct
  intro s
  refine ⟨?_, rfl, ?_, fun inc shift => ?_, fun d c b => ?_, fun a => ?_, fun a => ?_⟩
  · exact ⟨_, rfl, rfl, rfl, rfl, fun a ha => Memory.read_fill 128 a 0x20 ha⟩
  · exact ⟨_, rfl, rfl, rfl, MemoriesUnknown.read ⟨rfl, rfl⟩⟩
  · rw [← wordOf_entryModeSet]; rfl
  · rw [← wordOf_displayControl]; rfl
  · rw [← wordOf_setCgramAddr]; rfl
  · rw [← wordOf_setDdramAddr]; rfl

/-! ### FUNCTION_SET's three effects (R214, R116, R86) -/

/-- A FUNCTION_SET as INIT sends it, whose lines and font are new after an initialisation nibble or are those already
set. -/
abbrev TakesFunction (dl n f : Bool) (x : BitVec 2) (p : Panel) : Prop :=
  dl = false ∧ x = 0 ∧ ¬ (n = true ∧ f = true) ∧ (p.configured = false ∨ (n = p.lines ∧ f = p.font))

/-- The word `0:33` while INIT runs. -/
abbrev IsStrobesWord (dl n f : Bool) (x : BitVec 2) (p : Panel) : Prop :=
  p.resync = true ∧ dl = true ∧ x = 3 ∧ n = false ∧ f = false

theorem panelFunction_taken {dl n f : Bool} {x : BitVec 2} {p : Panel} (h : TakesFunction dl n f x p) :
    panelFunction dl n f x p = { p with lines := n, font := f, configured := true } := by
  obtain ⟨rfl, rfl, hnf, hset⟩ := h
  have hform : ¬ ((0 : BitVec 2) ≠ 0 ∨ (n && f) = true) := by simpa using hnf
  have hsame : ¬ (p.configured && (n != p.lines || f != p.font)) = true := by
    rcases hset with hc | ⟨rfl, rfl⟩
    · simp [hc]
    · simp
  rw [panelFunction, if_neg Bool.false_ne_true, if_neg hform, if_neg hsame]

/-- INIT's own `0:33` frees only N and F, and reopens initialisation (R116). -/
theorem panelFunction_strobes {dl n f : Bool} {x : BitVec 2} {p : Panel} (h : IsStrobesWord dl n f x p) :
    panelFunction dl n f x p = { panelResync p with configured := false } := by
  obtain ⟨hr, rfl, rfl, rfl, rfl⟩ := h
  rw [panelFunction, hr]
  rfl

/-- Every other FUNCTION_SET has any value as its effect, and counts as taken (R86, U13). -/
theorem panelFunction_other {dl n f : Bool} {x : BitVec 2} {p : Panel} (ht : ¬ TakesFunction dl n f x p)
    (hs : ¬ IsStrobesWord dl n f x p) : panelFunction dl n f x p = { panelAny p with configured := true } := by
  unfold panelFunction
  cases dl with
  | true =>
    have hraw : ¬ (p.resync && !n && !f && decide (x = 3)) = true := by
      simpa [IsStrobesWord, and_assoc, and_left_comm, and_comm] using hs
    rw [if_pos rfl, if_neg hraw]
  | false =>
    rw [if_neg Bool.false_ne_true]
    split
    · rfl
    · rename_i hform
      obtain ⟨hx, hnf⟩ : x = 0 ∧ ¬ (n = true ∧ f = true) := by simpa using hform
      obtain ⟨hc, hne⟩ := not_or.mp fun hset => ht ⟨rfl, hx, hnf, hset⟩
      have hc' : p.configured = true := by simpa using hc
      have hchange : (p.configured && (n != p.lines || f != p.font)) = true := by
        simpa [hc', imp_iff_not_or] using hne
      rw [if_pos hchange, ← hc']
      rfl

theorem panelFunction_setFramed (dl n f : Bool) (x : BitVec 2) (b : Bool) (p : Panel) :
    panelFunction dl n f x { p with framed := b } = { panelFunction dl n f x p with framed := b } := by
  unfold panelFunction
  dsimp only
  split_ifs <;> rfl

/-- A trusted FUNCTION_SET: its effect, and the mark `framed` cleared by a raw DL = 1 (R146). -/
theorem lcdFunctionSet_panel (dl n f : Bool) (x : BitVec 2) (w : CtrlWord) (torn : Bool) (l : Lcd) :
    (lcdFunctionSet dl n f x w torn true l).panel =
      { panelFunction dl n f x l.panel with framed := l.panel.framed && (!dl || l.panel.resync) } :=
  panelFunction_setFramed ..

theorem exec_functionSet (dl n f : Bool) (x : BitVec 2) (s : State) :
    exec (.functionSet dl n f x) s =
      .next { s with lcd := lcdFunctionSet dl n f x (wordOf (.functionSet dl n f x)) false true s.lcd } := rfl

/-- Settles O52: the fields of the delivery, then the effect of each of the three forms. -/
theorem functionSetActs : Obligations.FunctionSetActs := by
  unfold Obligations.FunctionSetActs
  intro dl n f x s
  refine ⟨_, exec_functionSet dl n f x s, rfl, rfl, rfl, rfl, ?_,
    ⟨_, rfl, decodeWord_wordOf (i := .functionSet dl n f x) rfl⟩, ?_⟩
  · rw [lcdFunctionSet_panel]
    simp
  · rw [lcdFunctionSet_panel]
    split_ifs with ht hs
    · rw [panelFunction_taken ht, ht.1, Bool.not_false, Bool.true_or, Bool.and_true]
    · rw [panelFunction_strobes hs]
      exact ⟨rfl, rfl, rfl, rfl⟩
    · rw [panelFunction_other ht hs]
      exact ⟨rfl, MemoriesUnknown.read ⟨rfl, rfl⟩⟩

end Sys2Proof.Machine
end

section
/-! What a data byte leaves unchanged, where it sends the address counter, and what it stores (R205, R217). -/

namespace Sys2Proof.Machine

/-! ### The frame of a data byte -/

/-- The fields a data byte can change: the memories, the counter, the shift, and the count of free values. -/
def DataFrame (p q : Panel) : Prop :=
  q = { p with ddram := q.ddram, cgram := q.cgram, ac := q.ac, shift := q.shift, draws := q.draws }

theorem DataFrame.trans {p q t : Panel} (h : DataFrame p q) (h' : DataFrame q t) : DataFrame p t :=
  Eq.trans h' (by rw [h])

theorem dataFrame_panelStore (r : Region) (d : Byte) (p : Panel) : DataFrame p (panelStore r d p) := by
  unfold panelStore
  cases r with
  | ddram | unknown => rfl
  | cgram => dsimp only; split_ifs <;> rfl

theorem dataFrame_panelAdvance (r : Region) (p : Panel) : DataFrame p (panelAdvance r p) := by
  unfold panelAdvance
  split_ifs <;> rfl

theorem dataFrame_panelShift (p : Panel) : DataFrame p (panelShift p) := by
  unfold panelShift
  split_ifs <;> rfl

theorem dataFrame_panelWrite (r : Region) (d : Byte) (p : Panel) : DataFrame p (panelWrite r d p) :=
  ((dataFrame_panelStore r d p).trans (dataFrame_panelAdvance r _)).trans (dataFrame_panelShift _)

theorem DataFrame.shiftOn {p q : Panel} (h : DataFrame p q) : q.shiftOn = p.shiftOn := (congrArg Panel.shiftOn h :)

@[simp] theorem panelAdvance_shift (r : Region) (p : Panel) : (panelAdvance r p).shift = p.shift := by
  unfold panelAdvance
  split_ifs <;> rfl

@[simp] theorem panelStore_shift (r : Region) (d : Byte) (p : Panel) : (panelStore r d p).shift = p.shift := by
  unfold panelStore
  cases r with
  | ddram | unknown => rfl
  | cgram => dsimp only; split_ifs <;> rfl

/-- With S = 0 a data byte does not shift the display. -/
theorem panelWrite_shift (r : Region) (d : Byte) {p : Panel} (h : p.shiftOn = false) :
    (panelWrite r d p).shift = p.shift := by
  have hoff : (panelAdvance r (panelStore r d p)).shiftOn = false :=
    ((dataFrame_panelStore r d p).trans (dataFrame_panelAdvance r _)).shiftOn.trans h
  simp [panelWrite, panelShift, hoff]

/-! ### The address counter (R212) -/

/-- A region that is not known has no addresses. -/
theorem ne_unknown_of_lt_addressCount {r : Region} {a : Nat} (h : a < addressCount r) : r ≠ .unknown := by
  rintro rfl
  exact Nat.not_lt_zero a h

theorem panelWrite_ac_up {r : Region} (d : Byte) {p : Panel} (hi : p.inc = true)
    (h : p.ac.toNat + 1 < addressCount r) : (panelWrite r d p).ac.toNat = p.ac.toNat + 1 := by
  have hfit : CellsFit r p.inc p.ac.toNat 2 :=
    ⟨ne_unknown_of_lt_addressCount h, Nat.lt_of_succ_lt h, by rw [hi]; exact h⟩
  rw [panelWrite_ac d hfit, hi]
  rfl

theorem panelWrite_ac_down {r : Region} (d : Byte) {p : Panel} (hi : p.inc = false) (hpos : 0 < p.ac.toNat)
    (h : p.ac.toNat < addressCount r) : (panelWrite r d p).ac.toNat = p.ac.toNat - 1 := by
  have hfit : CellsFit r p.inc p.ac.toNat 2 :=
    ⟨ne_unknown_of_lt_addressCount h, h, by rw [hi]; exact Nat.succ_le_succ hpos⟩
  rw [panelWrite_ac d hfit, hi]
  rfl

/-! ### The byte in CGRAM -/

/-- A data byte past CGRAM's end is stored nowhere. -/
theorem panelStore_past_cgram (d : Byte) {p : Panel} (hu : p.uploaded = false) (ha : 64 ≤ p.ac.toNat) :
    panelStore .cgram d p = p := by
  rw [panelStore, hu, if_neg Bool.false_ne_true, if_neg (Nat.not_lt.mpr ha)]

/-- A data byte to CGRAM leaves DDRAM, stored or not. -/
theorem panelWrite_cgram_ddram (d : Byte) (p : Panel) : (panelWrite .cgram d p).ddram = p.ddram := by
  rw [(panelWrite_memories .cgram d p).1, panelStore]
  split_ifs <;> rfl

/-- Where an upload left the pointer, a data byte leaves nothing known of CGRAM (U7). -/
theorem panelWrite_cgram_uploaded (d : Byte) {p : Panel} (hu : p.uploaded = true) :
    (panelWrite .cgram d p).cgram = [] :=
  (writeAll_uploaded (data := [d]) hu (List.cons_ne_nil d [])).2

/-- The cells of CGRAM after a data byte, where no upload left the pointer. -/
theorem read_cgram_panelWrite (d : Byte) {p : Panel} (hu : p.uploaded = false) :
    (∀ a, a ≠ p.ac.toNat ∨ 64 ≤ p.ac.toNat →
      Memory.read (panelWrite .cgram d p).cgram a = Memory.read p.cgram a) ∧
    (p.ac.toNat < 64 → Memory.read (panelWrite .cgram d p).cgram p.ac.toNat = some d) := by
  by_cases ha : p.ac.toNat < 64
  · have hmem : (panelWrite .cgram d p).cgram = Memory.write p.ac.toNat d p.cgram :=
      (regionMemory_panelWrite (r := .cgram) d nofun ha fun _ => hu).1
    rw [hmem]
    exact ⟨fun a h => Memory.read_write_other _ _ _ _ (h.resolve_right (Nat.not_le.mpr ha)),
      fun _ => Memory.read_write_same ..⟩
  · rw [(panelWrite_memories .cgram d p).2, panelStore_past_cgram d hu (Nat.not_lt.mp ha)]
    exact ⟨fun _ _ => rfl, fun h => absurd h ha⟩

theorem exec_writeData (d : Byte) (s : State) :
    exec (.writeData d) s =
      .next { s with lcd := lcdWriteData d (ctrlWord true d) false true s.lcd } := rfl

/-- Settles O53: what a data byte leaves, where the counter goes, and the memory the byte lands in. -/
theorem writeDataStores : Obligations.WriteDataStores := by
  unfold Obligations.WriteDataStores
  intro d s
  refine ⟨_, exec_writeData d s, rfl, rfl, dataFrame_panelWrite .., panelWrite_shift _ d, panelWrite_ac_up d,
    panelWrite_ac_down d, ?_⟩
  have hpanel : (lcdWriteData d (ctrlWord true d) false true s.lcd).panel =
    panelWrite s.lcd.obs.region d s.lcd.panel := rfl
  rw [hpanel]
  cases s.lcd.obs.region with
  | ddram =>
    obtain ⟨hd, hc⟩ := panelWrite_memories .ddram d s.lcd.panel
    exact ⟨hd ▸ Memory.read_write_same .., fun a ha => hd ▸ Memory.read_write_other _ _ _ _ ha, hc⟩
  | cgram =>
    exact ⟨panelWrite_cgram_ddram d _, read_cgram_panelWrite d, fun hu _ => by
      rw [panelWrite_cgram_uploaded d hu]; rfl⟩
  | unknown => exact MemoriesUnknown.read (panelWrite_memories .unknown d s.lcd.panel)

end Sys2Proof.Machine
end

section
/-! What one strobed nibble does to the controller: a word of its own on an 8-bit interface, half a word on a 4-bit one
(R112, R113, R218, R219). -/

namespace Sys2Proof.Machine

/-! ### A nibble on an 8-bit interface (R112) -/

theorem isFunctionNibble_iff (n : Nibble) (rs : Bool) :
    isFunctionNibble n rs = true ↔ rs = false ∧ n.extractLsb' 1 3 = 0b001#3 := by
  simp [isFunctionNibble]

theorem eightBitRegion_eq (n : Nibble) (rs : Bool) (r : Region) :
    eightBitRegion n rs r =
      if rs = false ∧ n.getLsbD 3 = true then .ddram
      else if rs = false ∧ n.extractLsb' 2 2 = 0b01#2 then .cgram
      else r := by
  cases rs <;> simp [eightBitRegion]

theorem lcdLatch_eight (n : Nibble) (rs : Bool) {l : Lcd} (hm : l.obs.mode = .eight) :
    lcdLatch n rs l = lcdLatchEight n rs l := by
  rw [lcdLatch, hm]

/-- FUNCTION_SET's nibble sets the width. -/
theorem lcdLatchEight_function_obs {n : Nibble} {rs : Bool} (hn : isFunctionNibble n rs = true) (l : Lcd) :
    (lcdLatchEight n rs l).obs = { l.obs with
      words := l.obs.words ++ [.eightBit rs n], mode := if n.getLsbD 0 then .eight else .four, phase := .high } := by
  rw [lcdLatchEight, if_pos hn]

/-- FUNCTION_SET's nibble keeps the memories of a controller whose words are trusted (R204). -/
theorem lcdLatchEight_function_memories {n : Nibble} {rs : Bool} (hn : isFunctionNibble n rs = true) {l : Lcd}
    (hf : l.panel.framed = true) :
    (lcdLatchEight n rs l).panel.ddram = l.panel.ddram ∧ (lcdLatchEight n rs l).panel.cgram = l.panel.cgram := by
  simp only [lcdLatchEight, hn, hf, if_true]
  exact ⟨rfl, rfl⟩

/-- Any other nibble can set the region, and leaves nothing known of the memories. -/
theorem lcdLatchEight_other {n : Nibble} {rs : Bool} (hn : ¬ isFunctionNibble n rs = true) (l : Lcd) :
    lcdLatchEight n rs l =
      { obs := { l.obs with
          words := l.obs.words ++ [.eightBit rs n], region := eightBitRegion n rs l.obs.region },
        panel := panelAny l.panel } := by
  rw [lcdLatchEight, if_neg hn]

/-! ### The initialisation nibbles (R218, R219) -/

theorem exec_initNibble8bit (s : State) :
    exec .initNibble8bit s = .next { s with lcd := lcdInitNibble 0x3 s.lcd } := rfl

theorem exec_initNibble4bit (s : State) :
    exec .initNibble4bit s = .next { s with lcd := lcdInitNibble 0x2 s.lcd } := rfl

/-- A 4-bit interface takes an initialisation nibble as any other. -/
theorem lcdInitNibble_four (n : Nibble) {l : Lcd} (hm : l.obs.mode = .four) :
    lcdInitNibble n l = lcdLatch n false l := by
  rw [lcdInitNibble, hm]

/-- An 8-bit interface takes an initialisation nibble as a FUNCTION_SET, and the next whole one is taken as part of
initialisation. -/
theorem lcdInitNibble_eight {n : Nibble} (hn : isFunctionNibble n false = true) {l : Lcd} (hm : l.obs.mode = .eight) :
    (lcdInitNibble n l).obs = { l.obs with
      words := l.obs.words ++ [.eightBit false n], mode := if n.getLsbD 0 then .eight else .four, phase := .high } ∧
    (lcdInitNibble n l).panel.configured = false ∧
    (l.panel.framed = true →
      (lcdInitNibble n l).panel.ddram = l.panel.ddram ∧ (lcdInitNibble n l).panel.cgram = l.panel.cgram) := by
  rw [lcdInitNibble_eq, lcdLatch_eight n false hm, hm]
  exact ⟨lcdLatchEight_function_obs hn l, Bool.and_false _, lcdLatchEight_function_memories hn⟩

/-- The nibble 0x2 brings sender and controller into step. -/
theorem lcdInitNibble_two_framed {l : Lcd} (hm : l.obs.mode = .eight) : (lcdInitNibble 0x2 l).panel.framed = true := by
  rw [lcdInitNibble_eq, hm]
  exact Bool.or_true _

/-- A 4-bit interface with a nibble held completes a word with it. -/
theorem lcdInitNibble_low (n : Nibble) {l : Lcd} (hm : l.obs.mode = .four) (hp : l.obs.phase = .low) :
    (lcdInitNibble n l).obs.phase = .high ∧
      (lcdInitNibble n l).obs.words = l.obs.words ++ [.full (0#1 ++ l.obs.hiNib ++ n) l.obs.hiRs] := by
  rw [lcdInitNibble_four n hm, lcdLatch_low hm hp]
  refine ⟨(lcdDeliver_latch ..).2.2.2 rfl, ?_⟩
  rw [lcdDeliver_words, Bool.bne_false]
  rfl

/-! ### A WIRE byte that makes an 8-bit interface latch its nibble (R112) -/

theorem exec_wireELow_eight (d : Nibble) (bl rs : Bool) {s : State} (hm : s.lcd.obs.mode = .eight)
    (hE : s.lcd.obs.prevE = true) :
    exec (.wireELow d bl rs) s = .next { s with
      expLatch := wireBits d bl false rs,
      lcd := { lcdLatchEight d rs s.lcd with obs := { (lcdLatchEight d rs s.lcd).obs with prevE := false } } } := by
  rw [← lcdLatch_eight d rs hm]
  exact (expanderBytesReachThePort d bl rs s).2.2 hE

/-- Settles O55: by the interface width, and in 4-bit mode by whether a nibble is held. -/
theorem initNibblesAreLatched : Obligations.InitNibblesAreLatched := by
  unfold Obligations.InitNibblesAreLatched
  intro s
  refine ⟨fun hm => ⟨?_, ?_, fun d bl rs hE => ?_⟩, fun hm hp => ?_, fun hm hp => ?_⟩
  · obtain ⟨hobs, hconf, hmem⟩ := lcdInitNibble_eight (n := 0x3) rfl hm
    exact ⟨_, exec_initNibble8bit s, rfl, hobs, hconf, hmem⟩
  · obtain ⟨hobs, hconf, hmem⟩ := lcdInitNibble_eight (n := 0x2) rfl hm
    exact ⟨_, exec_initNibble4bit s, rfl, hobs, hconf, lcdInitNibble_two_framed hm, hmem⟩
  · refine ⟨_, exec_wireELow_eight d bl rs hm hE, fun hn => ?_, fun hn => ?_⟩
    · rw [lcdLatchEight_function_obs ((isFunctionNibble_iff d rs).mpr hn), hn.1]
    · rw [← isFunctionNibble_iff] at hn
      rw [lcdLatchEight_other hn, eightBitRegion_eq]
      exact ⟨rfl, MemoriesUnknown.read ⟨rfl, rfl⟩⟩
  · rw [exec_initNibble8bit, exec_initNibble4bit, lcdInitNibble_four _ hm, lcdInitNibble_four _ hm,
      lcdLatch_first hm hp, lcdLatch_first hm hp]
    exact ⟨rfl, rfl⟩
  · obtain ⟨hphase8, hwords8⟩ := lcdInitNibble_low 0x3 hm hp
    obtain ⟨hphase4, hwords4⟩ := lcdInitNibble_low 0x2 hm hp
    exact ⟨⟨_, exec_initNibble8bit s, rfl, hphase8, hwords8⟩, ⟨_, exec_initNibble4bit s, rfl, hphase4, hwords4⟩⟩

end Sys2Proof.Machine
end

section
/-! Acceptance and the ways a request ends (R240 to R247, R253), what its trace says of its result, and which steps
move (R258). -/

namespace Sys2Proof.Machine

/-! ### A request is accepted by an idle block alone, and then it ends -/

/-- `Ends s o`: accepted in `s`, a request moves; it ends before any Tx with a result that is neither OK nor BUS_ERROR
(R242 to R245), or it performs its micro-ops (R14, R107). -/
inductive Ends (s : State) : StepOutcome → Prop
  | early {r : Result} : r ≠ .ok → (∀ info, r ≠ .busError info) → Ends s (.next (endRequest r s))
  | ran {e : Ending} {ops : List Op} {s1 : State} : s1.trace = s.trace → Ends s (.next (perform e ops s1))

/-- Every request but INIT and an illegal opcode needs a Ready block (R130, R243). -/
theorem exec_acceptReady {i : Instr} (hi : isRequest i = true) (hn : isInit i = false) (hl : isIllegal i = false) :
    ∃ body, (∀ s, exec i s = acceptReady s body) ∧ ∀ s, Ends s (body s) := by
  unfold exec
  cases i with
  | init _ _ _ _ _ _ => cases hn
  | illegalRequest _ => cases hl
  | setCursor row col =>
    refine ⟨_, fun _ => rfl, fun s => ?_⟩
    repeat' split
    · exact .early nofun nofun
    · exact .ran rfl
    · exact .early nofun nofun
    · exact .ran rfl
  | showText sel ell pad text =>
    refine ⟨_, fun _ => rfl, fun s => ?_⟩
    repeat' split
    · exact .ran rfl
    · exact .early nofun nofun
    · exact .ran rfl
  | clear | home | print _ | setBacklight _ | cursorOn | cursorOff | blinkOn | blinkOff | displayOn | displayOff
  | leftToRight | rightToLeft | autoscroll | noAutoscroll | uploadGlyph _ _ | writeByte _ _ =>
    exact ⟨_, fun _ => rfl, fun _ => .ran rfl⟩
  | _ => cases hi

/-- Every request needs an idle sequencer (R253). -/
theorem exec_acceptIdle {i : Instr} (hi : isRequest i = true) :
    ∃ body, (∀ s, exec i s = acceptIdle s body) ∧ ∀ s, Ends s (body s) := by
  cases i with
  | init rows cols addr clamp font backlight =>
    unfold exec
    refine ⟨_, fun _ => rfl, fun s => ?_⟩
    split
    · exact .ran rfl
    · exact .early nofun nofun
  | illegalRequest opcode =>
    unfold exec
    exact ⟨_, fun _ => rfl, fun _ => .early nofun nofun⟩
  | _ =>
    obtain ⟨body, hx, hb⟩ := exec_acceptReady hi rfl rfl
    refine ⟨_, hx, fun s => ?_⟩
    split
    · exact hb s
    · exact .early nofun nofun

theorem exec_request_ends {i : Instr} {s : State} (hi : isRequest i = true) (hs : s.seq = .idle) :
    Ends { s with trace := [], result := none } (exec i s) := by
  obtain ⟨body, hx, hb⟩ := exec_acceptIdle hi
  rw [hx, acceptIdle_idle _ _ hs]
  exact hb _

/-- Settles O13: acceptance answers before the request's own body is reached. -/
theorem requestsBeforeInitAreUninitialized : Obligations.RequestsBeforeInitAreUninitialized := by
  unfold Obligations.RequestsBeforeInitAreUninitialized
  intro i s hi hn hl hs hlife
  obtain ⟨body, hx, -⟩ := exec_acceptReady hi hn hl
  rw [hx, acceptReady_uninitialized _ _ hs hlife]

/-- Settles O16: acceptance refuses before the request's own body is reached. -/
theorem busySequencerAcceptsNoRequest : Obligations.BusySequencerAcceptsNoRequest := by
  unfold Obligations.BusySequencerAcceptsNoRequest
  intro i s ops k e hi hs
  obtain ⟨body, hx, -⟩ := exec_acceptIdle hi
  rw [hx, acceptIdle_busy _ _ (by simp [hs])]

/-! ### Answers before any Tx -/

theorem exec_illegalRequest (opcode : Byte) {s : State} (hs : s.seq = .idle) :
    exec (.illegalRequest opcode) s = .next (answered s (.illegalRequest opcode)) := by
  have hx : exec (.illegalRequest opcode) s = execIllegalRequest opcode s := rfl
  rw [hx, execIllegalRequest, acceptIdle_idle _ _ hs, endRequest_accepted _ hs]

/-- Settles O14: the request's answer, and a step whose frame is the opcode byte. -/
theorem illegalOpcodeAnsweredAtOnce : Obligations.IllegalOpcodeAnsweredAtOnce := by
  unfold Obligations.IllegalOpcodeAnsweredAtOnce
  refine ⟨fun opcode s hs => exec_illegalRequest opcode hs, fun s opcode rest hs ha hrx hop => ?_⟩
  have hd : decodeFrame s.rx = .ok (.illegalRequest opcode, rest) := hrx ▸ decodeFrame_illegal rest hop
  rw [step_frame hs ha hd]
  exact exec_illegalRequest opcode hs

/-- Settles O15: INIT's check of the geometry fails before its registers are written. -/
theorem illegalGeometryChangesNothing : Obligations.IllegalGeometryChangesNothing := by
  unfold Obligations.IllegalGeometryChangesNothing
  intro rows cols addr clamp font backlight s hs hg
  have hx : exec (.init rows cols addr clamp font backlight) s = execInit rows cols addr clamp font backlight s := rfl
  rw [← geometryLegal_iff] at hg
  rw [hx, execInit, acceptIdle_idle _ _ hs, if_neg hg, endRequest_accepted _ hs]

/-! ### Every request is answered -/

theorem Ends.answers {s : State} {o : StepOutcome} (h : Ends s o) :
    ∃ t r, o = .next t ∧ t.seq = .idle ∧ t.result = some r := by
  cases h with
  | early _ _ => exact ⟨_, _, rfl, rfl, rfl⟩
  | @ran e ops s1 _ =>
    obtain ⟨hr, -⟩ | ⟨info, hr, -⟩ := perform_cases e ops s1
    · exact ⟨_, _, rfl, perform_seq .., hr⟩
    · exact ⟨_, _, rfl, perform_seq .., hr⟩

/-- Settles O19: an accepted request ends, and either way of ending leaves a result. -/
theorem everyRequestIsAnswered : Obligations.EveryRequestIsAnswered := by
  unfold Obligations.EveryRequestIsAnswered
  exact ⟨fun i s hi hs => (exec_request_ends hi hs).answers, rfl, fun _ => rfl, fun _ _ _ _ => rfl, rfl,
    fun _ _ => rfl, fun _ => rfl⟩

/-! ### What the trace says of the result (R100, R107, R241) -/

/-- Every Tx among the events was answered Ok. -/
abbrev AllOk (evs : List Event) : Prop := ∀ addr b ans, Event.tx addr b ans ∈ evs → ans = .ok

/-- The last event is the only failed Tx, and `info` is its error value. -/
abbrev FailsLast (info : BusErrorInfo) (evs : List Event) : Prop :=
  ∃ before addr b took, evs = before ++ [.tx addr b (.err info took)] ∧ AllOk before

theorem AllOk.append {a b : List Event} (ha : AllOk a) (hb : AllOk b) : AllOk (a ++ b) := fun addr v ans hm =>
  (List.mem_append.mp hm).elim (ha addr v ans) (hb addr v ans)

theorem allOk_delay (t : Nat) : AllOk [.delay t] := fun _ _ _ hm => by cases List.mem_singleton.mp hm

theorem allOk_tx (addr : HalfWord) (b : Byte) : AllOk [.tx addr b .ok] := fun _ _ _ hm => by
  cases List.mem_singleton.mp hm
  rfl

/-- Micro-ops that completed saw only Ok; the others stopped at the first Err. -/
def Progress.Traced : Progress → Prop
  | .going t => AllOk t.trace
  | .failed info t => FailsLast info t.trace

theorem issue_traced (op : Op) {s : State} (h : AllOk s.trace) : (issue op s).Traced := by
  cases op with
  | delay t => exact h.append (allOk_delay t)
  | tx n rs e =>
    simp only [issue, transmit]
    cases nextAnswer s with
    | ok => exact h.append (allOk_tx _ _)
    | err info took => cases took <;> exact ⟨s.trace, _, _, _, rfl, h⟩

theorem runOps_traced (ops : List Op) {s : State} (h : AllOk s.trace) : (runOps ops s).Traced := by
  induction ops generalizing s with
  | nil => exact h
  | cons op ops ih =>
    have hop := issue_traced op h
    unfold runOps
    cases hi : issue op s with
    | going t => rw [hi] at hop; exact ih hop
    | failed info t => rw [hi] at hop; exact hop

/-- The trace of a machine whose request ended agrees with its result. -/
abbrev TraceFitsResult (t : State) : Prop :=
  (∀ info, t.result = some (.busError info) → FailsLast info t.trace) ∧ (t.result = some .ok → AllOk t.trace)

theorem finish_traceFitsResult (e : Ending) {p : Progress} (h : p.Traced) : TraceFitsResult (finish e p) := by
  cases p with
  | going t => exact ⟨nofun, fun _ => h⟩
  | failed info t => exact ⟨fun _ hr => by cases hr; exact h, nofun⟩

theorem Ends.traceFitsResult {s t : State} (ht : s.trace = []) (h : Ends s (.next t)) : TraceFitsResult t := by
  cases h with
  | early hok hbus =>
    exact ⟨fun info h => absurd (Option.some.inj h) (hbus info), fun h => absurd (Option.some.inj h) hok⟩
  | @ran e ops s1 hs1 =>
    have hstart : AllOk (startSeq e ops s1).trace := fun _ _ _ hm => by simp [hs1, ht] at hm
    exact finish_traceFitsResult e (runOps_traced ops hstart)

/-- Settles O20: by how the request ended; its trace begins empty and every micro-op keeps `Progress.Traced`. -/
theorem busErrorIsLastEvent : Obligations.BusErrorIsLastEvent := by
  unfold Obligations.BusErrorIsLastEvent
  intro i s t hi hx
  have hends := exec_request_ends hi (exec_request_moves hi hx).1
  rw [hx] at hends
  exact hends.traceFitsResult rfl

/-! ### Which steps move (R78, R258) -/

theorem exec_of_not_request {i : Instr} (hi : isRequest i = false) (s : State) : ∃ t, exec i s = .next t := by
  cases i with
  | wireELow _ _ _ | wireEHigh _ _ _ | clearDisplay | returnHome _ | entryModeSet _ _ | displayControl _ _ _
  | functionSet _ _ _ _ | setCgramAddr _ | setDdramAddr _ | cursorDisplayShift _ _ _ | noCommand00 | writeData _
  | initNibble8bit | initNibble4bit => exact ⟨_, rfl⟩
  | _ => cases hi

/-- An idle block executes every instruction of every layer. -/
theorem exec_idle (i : Instr) {s : State} (hs : s.seq = .idle) : ∃ t, exec i s = .next t := by
  cases hi : isRequest i with
  | true =>
    obtain ⟨t, -, hx, -⟩ := (exec_request_ends hi hs).answers
    exact ⟨t, hx⟩
  | false => exact exec_of_not_request hi s

theorem decodeWire_ok_of_write {b : Byte} (hb : b.getLsbD 1 = false) : ∃ i, decodeWire b = .ok i := by
  unfold decodeWire
  rw [hb]
  cases b.getLsbD 2 <;> exact ⟨_, rfl⟩

/-- A byte with RW = 1 has no row. -/
theorem step_readWriteByte {s : State} {b : Byte} {rest : List Arrival} (hs : s.seq = .idle)
    (ha : s.arrivals = .wire b :: rest) (hb : b.getLsbD 1 = true) : step s = .refused .readWriteSet := by
  simp only [step, fetch, fetchArrival, hs, ha, decodeWire, hb, if_true]

/-- A nibble that is no row is latched all the same (R112, R113). -/
theorem step_strobe {s : State} {v : BitVec 5} {err : DecodeError} {rest : List Arrival} (hs : s.seq = .idle)
    (ha : s.arrivals = .nibble v :: rest) (hd : decodeNibble v = .error err) :
    step s = .next { s with arrivals := rest, lcd := lcdLatch (v.extractLsb' 0 4) (v.getLsbD 4) s.lcd } := by
  simp only [step, fetch, fetchArrival, hs, ha, hd]

theorem safeStep_arrival {s : State} {a : Arrival} {rest : List Arrival} (hs : s.seq = .idle)
    (ha : s.arrivals = a :: rest) (hw : ∀ b, a = .wire b → b.getLsbD 1 = false) : SafeStep s := by
  have hx := fun i => exec_idle i (s := { s with arrivals := rest }) hs
  cases a with
  | wire b =>
    obtain ⟨i, hd⟩ := decodeWire_ok_of_write (hw b rfl)
    exact (hx i).imp fun _ h => (step_wire hs ha hd).trans h
  | word w => exact (hx _).imp fun _ h => (step_word hs ha).trans h
  | nibble v =>
    cases hd : decodeNibble v with
    | ok i => exact (hx i).imp fun _ h => (step_nibble hs ha hd).trans h
    | error err => exact ⟨_, step_strobe hs ha hd⟩

theorem safeStep_frame {s : State} (hs : s.seq = .idle) (ha : s.arrivals = []) : SafeStep s := by
  cases hd : decodeFrame s.rx with
  | ok p => exact (exec_idle p.1 (s := { s with rx := p.2 }) hs).imp fun _ h => (step_frame hs ha hd).trans h
  | error err => exact ⟨s, step_wait hs ha hd⟩

/-- Settles O9: by what the step takes; an idle block executes whatever decodes, and among arrivals only a byte with
RW = 1 has neither an instruction nor a nibble to latch. -/
theorem onlyReadWriteByteStops : Obligations.OnlyReadWriteByteStops := by
  unfold Obligations.OnlyReadWriteByteStops
  refine ⟨fun s hw => ?_, fun s b rest hs ha hb => step_readWriteByte hs ha hb⟩
  obtain hs | ⟨ops, k, e, hs⟩ := seq_idle_or_busy s.seq
  · cases ha : s.arrivals with
    | nil => exact safeStep_frame hs ha
    | cons a rest => exact safeStep_arrival hs ha fun b hb => hw b rest (hb ▸ ha)
  · exact ⟨_, step_busy hs⟩

end Sys2Proof.Machine
end

section
/-! The machine after power-on (R270, R110). -/

namespace Sys2Proof.Machine

/-- Settles O10: each field as R270 and R110 give it. -/
theorem powerOnState : Obligations.PowerOnState := by
  unfold Obligations.PowerOnState
  exact ⟨rfl, rfl, rfl, rfl, rfl, rfl, rfl, rfl⟩

/-- Settles O11: the flag registers hold 0, the strobe is high on both sides, and nothing is known, sent or running. -/
theorem powerOnMeetsInvariant : Obligations.PowerOnMeetsInvariant := by
  unfold Obligations.PowerOnMeetsInvariant
  exact {
    geometry := fun h => absurd h (by decide)
    entry := rfl
    dispctl := rfl
    funcset := rfl
    strobe := rfl
    phase := fun _ => rfl
    memory := ⟨.nil, List.forall_mem_nil _, .nil, List.forall_mem_nil _⟩
    resync := fun h => absurd h Bool.false_ne_true
    readWrite := fun _ _ _ hm => absurd hm List.not_mem_nil }

end Sys2Proof.Machine
end

section
/-! Transactions, delays and the minimum total delay of a request that completed (R285): of each macro, and so of each
request's micro-ops. -/

namespace Sys2Proof.Machine

/-! ### Counts of events and of micro-ops -/

@[simp] theorem txCount_append (a b : List Event) : txCount (a ++ b) = txCount a + txCount b := by
  simp [txCount]

@[simp] theorem delayCount_append (a b : List Event) : delayCount (a ++ b) = delayCount a + delayCount b := by
  induction a with
  | nil => exact (Nat.zero_add _).symm
  | cons e a ih => cases e <;> simp [delayCount, ih]; omega

@[simp] theorem delaySum_append (a b : List Event) : delaySum (a ++ b) = delaySum a + delaySum b := by
  induction a with
  | nil => exact (Nat.zero_add _).symm
  | cons e a ih => cases e <;> simp [delaySum, ih]; omega

/-- The trace has `tx` transactions and `delays` delays, which take `total` µs. -/
abbrev Counts (evs : List Event) (tx delays total : Nat) : Prop :=
  txCount evs = tx ∧ delayCount evs = delays ∧ delaySum evs = total

/-- So has the trace of the micro-ops where every Tx is answered Ok. -/
structure OpCounts (ops : List Op) (tx delays total : Nat) : Prop where
  counts : ∀ addr bl, Counts (opEvents addr bl ops) tx delays total

theorem OpCounts.append {a b : List Op} {tx tx' delays delays' total total' : Nat} (ha : OpCounts a tx delays total)
    (hb : OpCounts b tx' delays' total') : OpCounts (a ++ b) (tx + tx') (delays + delays') (total + total') := by
  refine ⟨fun addr bl => ?_⟩
  obtain ⟨htx, hdelays, htotal⟩ := ha.counts addr bl
  obtain ⟨htx', hdelays', htotal'⟩ := hb.counts addr bl
  rw [opEvents_append]
  simp [Counts, htx, hdelays, htotal, htx', hdelays', htotal']

theorem opCounts_delay (t : Nat) : OpCounts [.delay t] 0 1 t := ⟨fun _ _ => ⟨rfl, rfl, rfl⟩⟩

theorem opCounts_blPushOps : OpCounts blPushOps 1 0 0 := ⟨fun _ _ => ⟨rfl, rfl, rfl⟩⟩

theorem opCounts_nibOps (t : Timing) (n : Byte) (rs : Bool) (settle : Nat) :
    OpCounts (nibOps t n rs settle) 3 2 (t.tEnableHold + settle) := ⟨fun _ _ => ⟨rfl, rfl, rfl⟩⟩

theorem opCounts_byteOps (t : Timing) (v : Byte) (rs : Bool) :
    OpCounts (byteOps t v rs) 6 4 (2 * t.tEnableHold + 2 * t.tSettle) := by
  have htotal : 2 * t.tEnableHold + 2 * t.tSettle = (t.tEnableHold + t.tSettle) + (t.tEnableHold + t.tSettle) := by
    omega
  rw [htotal]
  exact (opCounts_nibOps ..).append (opCounts_nibOps ..)

/-- The cold-start sequence (R131): four strobes, each with its own wait, and five bytes. -/
theorem opCounts_initOps (t : Timing) (funcset dispctl entry : Byte) :
    OpCounts (initOps t funcset dispctl entry) 42 31
      (t.tPowerOn + t.tInitFirst + 3 * t.tInitNext + 4 * t.tEnableHold + 5 * (2 * t.tEnableHold + 2 * t.tSettle)
        + 2 * t.tClearHome) := by
  have h := (opCounts_delay t.tPowerOn).append (opCounts_nibOps t 0x30 false t.tInitFirst)
    |>.append (opCounts_nibOps t 0x30 false t.tInitNext) |>.append (opCounts_nibOps t 0x30 false t.tInitNext)
    |>.append (opCounts_nibOps t 0x20 false t.tInitNext) |>.append (opCounts_byteOps t (functionCommand funcset) false)
    |>.append (opCounts_byteOps t (displayCommand dispctl) false)
    |>.append (opCounts_byteOps t (entryCommand entry) false) |>.append (opCounts_byteOps t clearCommand false)
    |>.append (opCounts_delay t.tClearHome) |>.append (opCounts_byteOps t homeCommand false)
    |>.append (opCounts_delay t.tClearHome)
  refine ⟨fun addr bl => ?_⟩
  obtain ⟨htx, hdelays, htotal⟩ := h.counts addr bl
  exact ⟨htx, hdelays, htotal.trans (by omega)⟩

/-! ### Micro-ops that are whole bytes -/

/-- The counts of `n` byte transfers. -/
def ByteCounts (t : Timing) (n : Nat) (ops : List Op) : Prop :=
  OpCounts ops (6 * n) (4 * n) (n * (2 * t.tEnableHold + 2 * t.tSettle))

namespace ByteCounts

variable {t : Timing}

theorem nil : ByteCounts t 0 [] := ⟨fun _ _ => ⟨rfl, rfl, (Nat.zero_mul _).symm⟩⟩

theorem byteOps (v : Byte) (rs : Bool) : ByteCounts t 1 (byteOps t v rs) := by
  unfold ByteCounts
  rw [Nat.one_mul]
  exact opCounts_byteOps t v rs

theorem append {a b : List Op} {m n : Nat} (ha : ByteCounts t m a) (hb : ByteCounts t n b) :
    ByteCounts t (m + n) (a ++ b) := by
  unfold ByteCounts
  rw [Nat.mul_add, Nat.mul_add, Nat.add_mul]
  exact OpCounts.append ha hb

theorem dataOps (data : List Byte) : ByteCounts t data.length (dataOps t data) := by
  induction data with
  | nil => exact nil
  | cons d data ih =>
    rw [List.length_cons, Nat.add_comm]
    exact (byteOps d true).append ih

/-- Each chunk with its row's address command (R180). -/
theorem chunkOps (row : Nat) (chunks : List (List Byte)) :
    ByteCounts t (chunks.map fun c => c.length + 1).sum (chunkOps t row chunks) := by
  induction chunks generalizing row with
  | nil => exact nil
  | cons chunk chunks ih =>
    rw [List.map_cons, List.sum_cons, Nat.add_comm chunk.length 1]
    exact ((byteOps _ false).append (dataOps chunk)).append (ih (row + 1))

end ByteCounts

/-! ### Requests that completed -/

/-- A request that answered OK has the counts of its micro-ops. -/
theorem counts_perform {e : Ending} {ops : List Op} {s : State} {tx delays total : Nat}
    (hok : (perform e ops s).result = some .ok) (ht : s.trace = []) (hc : OpCounts ops tx delays total) :
    Counts (perform e ops s).trace tx delays total := by
  rw [(perform_of_ok hok).1, ht]
  exact hc.counts _ _

theorem counts_acceptReady {e : Ending} {ops : List Op} {s s1 t : State} {body : State → StepOutcome}
    {tx delays total : Nat} (h : acceptReady s body = .next t) (hok : t.result = some .ok)
    (hb : body { s with trace := [], result := none } = .next (perform e ops s1)) (ht : s1.trace = [])
    (hc : OpCounts ops tx delays total) : Counts t.trace tx delays total := by
  cases hb.symm.trans (acceptReady_ok h hok)
  exact counts_perform hok ht hc

/-- The number of bytes SHOW_TEXT transfers: the text, or each chunk of the layout with its address command. -/
abbrev showTextBytes (sel : BitVec 4) (ell pad : Bool) (text : List Byte) (cols : Nat) : Nat :=
  if sel = 0 then text.length else ((layout text sel ell pad cols).map fun c => c.length + 1).sum

/-- SHOW_TEXT that answered OK was a PRINT, or its selection was inside the geometry. -/
theorem exec_showText_of_ok {sel : BitVec 4} {ell pad : Bool} {text : List Byte} {s t : State}
    (h : exec (.showText sel ell pad text) s = .next t) (hok : t.result = some .ok) :
    ∃ ops, t = perform .plain ops { s with trace := [], result := none } ∧
      ByteCounts s.timing (showTextBytes sel ell pad text s.geomCols.toNat) ops := by
  unfold exec at h
  replace h := acceptReady_ok h hok
  dsimp only at h
  split_ifs at h with hs
  · cases h
    exact ⟨_, rfl, by rw [showTextBytes, if_pos hs]; exact .dataOps text⟩
  · cases h
    cases hok
  · cases h
    exact ⟨_, rfl, by rw [showTextBytes, if_neg hs]; exact .chunkOps _ _⟩

/-- Settles O41: the micro-ops of each request, macro by macro. -/
theorem countsOfCompletedRequests : Obligations.CountsOfCompletedRequests := by
  unfold Obligations.CountsOfCompletedRequests
  intro i s t h hok hold settle unit
  unfold exec at h
  cases i with
  | init rows cols addr clamp font backlight =>
    obtain ⟨e, ops, s1, hr, rfl⟩ := exec_request_ok (i := .init rows cols addr clamp font backlight) rfl h hok
    cases hr with
    | init _ => exact counts_perform hok rfl (opCounts_initOps ..)
    | display _ _ hd => cases hd
    | entry _ _ he => cases he
  | setCursor row col =>
    obtain ⟨e, ops, s1, hr, rfl⟩ := exec_request_ok (i := .setCursor row col) rfl h hok
    cases hr with
    | cursor clamped => exact counts_perform hok rfl (opCounts_byteOps ..)
    | display _ _ hd => cases hd
    | entry _ _ he => cases he
  | clear | home => exact counts_acceptReady h hok rfl rfl ((opCounts_byteOps ..).append (opCounts_delay _))
  | cursorOn | cursorOff | blinkOn | blinkOff | displayOn | displayOff | leftToRight | rightToLeft | autoscroll
  | noAutoscroll | writeByte _ _ => exact counts_acceptReady h hok rfl rfl (opCounts_byteOps ..)
  | setBacklight on => exact counts_acceptReady h hok rfl rfl opCounts_blPushOps
  | print data => exact counts_acceptReady h hok rfl rfl (ByteCounts.dataOps data)
  | showText sel ell pad text =>
    obtain ⟨ops, rfl, hc⟩ := exec_showText_of_ok h hok
    exact counts_perform hok rfl hc
  | uploadGlyph slot bitmap =>
    exact counts_acceptReady h hok rfl rfl ((ByteCounts.byteOps _ false).append (.dataOps bitmap))
  | _ => trivial

end Sys2Proof.Machine
end

section
/-! An INIT that completes brings any controller into step (R271): its strobes end in 4-bit mode with the words trusted,
and its five commands then set every register (R116, R210 to R214). -/

namespace Sys2Proof.Machine

/-! ### The strobes: the last nibble meets an 8-bit interface -/

/-- The controller that INIT's last strobe meets. -/
def beforeLastStrobe (l : Lcd) : Lcd :=
  latchAll (List.replicate (if l.obs.prevE then 4 else 3) 0x3) { l with obs := { l.obs with prevE := false } }

theorem latchAll_initNibbles (l : Lcd) :
    latchAll (initNibbles (if l.obs.prevE then 4 else 3)) { l with obs := { l.obs with prevE := false } } =
      lcdLatch 0x2 false (beforeLastStrobe l) := by
  simp [latchAll, beforeLastStrobe]

theorem observeAll_strobes (bl : Bool) (l : Lcd) :
    observeAll (strobeBytes bl) l = lcdLatch 0x2 false (beforeLastStrobe l) :=
  (observeAll_strobeBytes bl l).trans (latchAll_initNibbles l)

@[simp] theorem latchAll_resync (ns : List Nibble) (l : Lcd) : (latchAll ns l).panel.resync = l.panel.resync := by
  induction ns generalizing l with
  | nil => rfl
  | cons n ns ih => exact (ih _).trans (lcdLatch_resync n false l)

/-- Only an 8-bit interface makes a word of one nibble (R112, R113). -/
theorem mode_eight_of_lcdLatch {n m : Nibble} {rs rs' : Bool} {l : Lcd} (hp : (lcdLatch n rs l).obs.phase = .high)
    (hw : (lcdLatch n rs l).obs.words.getLast? = some (.eightBit rs' m)) : l.obs.mode = .eight := by
  cases hm : l.obs.mode with
  | eight => rfl
  | four =>
    cases hl : l.obs.phase with
    | high =>
      rw [lcdLatch_first hm hl] at hp
      cases hp
    | low =>
      rw [lcdLatch_low hm hl, lcdDeliver_words] at hw
      simp at hw

theorem strobeWords_getLast? (o : Observer) : (strobeWords o).getLast? = some (.eightBit false 0x2) := by
  unfold strobeWords
  dsimp only
  split
  case h_5 | h_6 => split <;> rfl
  all_goals rfl

theorem beforeLastStrobe_mode (l : Lcd) : (beforeLastStrobe l).obs.mode = .eight := by
  obtain ⟨-, hphase, hwords⟩ := resyncs_strobeWords l
  rw [latchAll_initNibbles] at hphase hwords
  refine mode_eight_of_lcdLatch hphase (rs' := false) (m := 0x2) ?_
  rw [hwords, List.getLast?_append, strobeWords_getLast?]
  rfl

/-- INIT's nibble 0x2 on an 8-bit interface: the words after it are trusted, and the next FUNCTION_SET is taken as part
of initialisation. -/
theorem lcdLatch_two_marks {l : Lcd} (hm : l.obs.mode = .eight) (hr : l.panel.resync = true) :
    (lcdLatch 0x2 false l).panel.framed = true ∧ (lcdLatch 0x2 false l).panel.configured = false := by
  have hany : (if l.panel.framed then panelResync l.panel else panelAny l.panel).resync = true := by
    split <;> exact hr
  rw [lcdLatch_eight 0x2 false hm]
  refine ⟨hr, ?_⟩
  change (_ && !(if l.panel.framed then panelResync l.panel else panelAny l.panel).resync) = false
  rw [hany]
  exact Bool.and_false _

/-- The controller after INIT's strobes, whatever it was when INIT began. -/
theorem follows_observeAll_strobes (bl : Bool) {l : Lcd} (hr : l.panel.resync = true) :
    Follows (observeAll (strobeBytes bl) l) ∧ (observeAll (strobeBytes bl) l).panel.configured = false := by
  have hstep := (initStrobesResynchronise bl l).1
  obtain ⟨hframed, hconf⟩ := lcdLatch_two_marks (beforeLastStrobe_mode l) ((latchAll_resync ..).trans hr)
  rw [observeAll_strobes] at hstep ⊢
  exact ⟨⟨hstep, hframed⟩, hconf⟩

/-! ### The strobes keep CGRAM (R204) -/

/-- INIT is running, the words are trusted, CGRAM is `cgram`, and a nibble that is held is the first strobe's. -/
structure StrobesKeep (cgram : Memory) (l : Lcd) : Prop where
  resync : l.panel.resync = true
  framed : l.panel.framed = true
  cgram : l.panel.cgram = cgram
  held : l.obs.mode = .four → l.obs.phase = .low → l.obs.hiNib = 0x3 ∧ l.obs.hiRs = false

/-- INIT's own word `0:33` (R116). -/
theorem lcdDeliver_strobesWord {torn : Bool} {l : Lcd} (hr : l.panel.resync = true) :
    (lcdDeliver 0x033 torn true l).obs.mode = .eight ∧
      (lcdDeliver 0x033 torn true l).panel = { panelResync l.panel with configured := false } := by
  have hx : lcdDeliver 0x033 torn true l = lcdFunctionSet true false false 3 0x033 torn true l := rfl
  rw [hx]
  refine ⟨rfl, ?_⟩
  rw [lcdFunctionSet_panel, panelFunction_strobes ⟨hr, rfl, rfl, rfl, rfl⟩, hr, Bool.or_true, Bool.and_true]
  rfl

theorem StrobesKeep.latch_three {cgram : Memory} {l : Lcd} (h : StrobesKeep cgram l) :
    StrobesKeep cgram (lcdLatch 0x3 false l) := by
  obtain ⟨hr, hf, hc, hheld⟩ := h
  have hr' := (lcdLatch_resync 0x3 false l).trans hr
  cases hm : l.obs.mode with
  | eight =>
    rw [lcdLatch_eight 0x3 false hm] at hr' ⊢
    exact ⟨hr', hf, (lcdLatchEight_function_memories rfl hf).2.trans hc, fun hm' => by cases hm'⟩
  | four =>
    cases hp : l.obs.phase with
    | high =>
      rw [lcdLatch_first hm hp]
      exact ⟨hr, hf, hc, fun _ _ => ⟨rfl, rfl⟩⟩
    | low =>
      obtain ⟨hn, hrs⟩ := hheld hm hp
      obtain ⟨hmode, hpanel⟩ := lcdDeliver_strobesWord (torn := false)
        (l := { l with obs := { l.obs with phase := .high } }) hr
      have hx : lcdLatch 0x3 false l = lcdDeliver 0x033 false true { l with obs := { l.obs with phase := .high } } := by
        rw [lcdLatch_low hm hp, hn, hrs, hf]
        rfl
      rw [hx] at hr' ⊢
      refine ⟨hr', ?_, ?_, fun hm' => ?_⟩
      · rw [hpanel]; exact hf
      · rw [hpanel]; exact hc
      · cases hmode.symm.trans hm'

theorem StrobesKeep.latchAll {cgram : Memory} (k : Nat) {l : Lcd} (h : StrobesKeep cgram l) :
    StrobesKeep cgram (latchAll (List.replicate k 0x3) l) := by
  induction k generalizing l with
  | zero => exact h
  | succ k ih => exact ih h.latch_three

theorem observeAll_strobes_cgram (bl : Bool) {l : Lcd} (hr : l.panel.resync = true) (hf : l.panel.framed = true)
    (hn : l.obs.mode = .eight ∨ l.obs.phase = .high) :
    (observeAll (strobeBytes bl) l).panel.cgram = l.panel.cgram := by
  have hstart : StrobesKeep l.panel.cgram { l with obs := { l.obs with prevE := false } } := by
    refine ⟨hr, hf, rfl, fun hm hp => ?_⟩
    rcases hn with hn | hn
    · cases hn.symm.trans hm
    · cases hn.symm.trans hp
  have hbefore : StrobesKeep l.panel.cgram (beforeLastStrobe l) := hstart.latchAll _
  rw [observeAll_strobes, lcdLatch_eight 0x2 false (beforeLastStrobe_mode l)]
  exact (lcdLatchEight_function_memories rfl hbefore.framed).2.trans hbefore.cgram

/-! ### The five commands (R210 to R214) -/

/-- A controller in step with the contents `p`. -/
abbrev Settled (p : Panel) (l : Lcd) : Prop := InStep l ∧ l.panel = p

/-- A command whose words are trusted and that leaves the interface 4-bit. -/
theorem Settled.command (bl : Bool) {v : Byte} {p q : Panel} {l : Lcd} (h : Settled p l) (hf : p.framed = true)
    (hm : modeAfter (decodeWord (ctrlWord false v)) .four = .four)
    (hq : ∀ l, l.panel = p → (lcdDeliver (ctrlWord false v) false true l).panel = q) :
    Settled q (observeAll (byteBytes bl v false) l) := by
  obtain ⟨⟨hmode, hphase, hE⟩, rfl⟩ := h
  obtain ⟨-, -, hE', hphase'⟩ := lcdDeliver_latch (ctrlWord false v) false true
    { l with obs := { l.obs with hiNib := (v &&& 0xF0).extractLsb' 4 4, hiRs := false } }
  rw [observeAll_command bl v ⟨hmode, hphase, hE⟩ hf]
  refine ⟨⟨?_, hphase' hphase, hE'.trans hE⟩, hq _ rfl⟩
  rw [lcdDeliver_modeAfter, hmode, hm]

/-- The commands after INIT's strobes, with FUNCTION_SET's byte (R131). -/
def initCommandBytes (bl : Bool) (function : Byte) : List Byte :=
  byteBytes bl function false ++ byteBytes bl 0x0C false ++ byteBytes bl 0x06 false ++ byteBytes bl 0x01 false ++
    byteBytes bl 0x02 false

theorem sentBytes_initEvents (s : State) (funcset : Byte) :
    sentBytes (initEvents s funcset) = strobeBytes s.bl ++ initCommandBytes s.bl (0x20 ||| funcset) := rfl

/-- The contents after INIT's commands, one effect after another. -/
def panelInitialised (lines font : Bool) (p : Panel) : Panel :=
  panelHome (panelClear (panelEntry true false (panelDisplay true false false (panelFunction false lines font 0 p))))

/-- FUNCTION_SET as INIT sends it leaves the mark `framed`. -/
theorem lcdDeliver_functionSet_panel {w : CtrlWord} {n f : Bool}
    (hd : decodeWord w = .functionSet false n f 0) (l : Lcd) :
    (lcdDeliver w false true l).panel = panelFunction false n f 0 l.panel := by
  rw [lcdDeliver, hd]
  dsimp only
  rw [lcdFunctionSet_panel, Bool.not_false, Bool.true_or, Bool.and_true, ← panelFunction_framed false n f 0 l.panel]

/-- The five commands, to a controller in step whose words are trusted. -/
theorem observeAll_initCommands (bl : Bool) {function : Byte} {n f : Bool} {l : Lcd} (h : Follows l)
    (hd : decodeWord (ctrlWord false function) = .functionSet false n f 0) :
    Settled (panelInitialised n f l.panel) (observeAll (initCommandBytes bl function) l) ∧
      (observeAll (initCommandBytes bl function) l).obs.region = .ddram := by
  obtain ⟨hstep, hf⟩ := h
  have hframed := (panelFunction_framed false n f 0 l.panel).trans hf
  have hfunction : Settled (panelFunction false n f 0 l.panel) _ :=
    Settled.command bl ⟨hstep, rfl⟩ hf (by rw [hd]; rfl) fun l' hl => hl ▸ lcdDeliver_functionSet_panel hd l'
  have hdisplay := hfunction.command bl (v := 0x0C) hframed rfl fun _ => congrArg (panelDisplay true false false)
  have hentry := hdisplay.command bl (v := 0x06) hframed rfl fun _ => congrArg (panelEntry true false)
  have hclear := hentry.command bl (v := 0x01) hframed rfl fun _ => congrArg panelClear
  have hhome := hclear.command bl (v := 0x02) hframed rfl fun _ => congrArg panelHome
  simp only [initCommandBytes, observeAll_append]
  refine ⟨hhome, ?_⟩
  rw [observeAll_command bl 0x02 hclear.1 (hclear.2 ▸ hframed)]
  rfl

/-- The registers and DDRAM after INIT's commands (R27 to R29, R210, R211). -/
theorem panelInitialised_contents {n f : Bool} {p : Panel} (hnf : ¬ (n = true ∧ f = true))
    (hc : p.configured = false) :
    ∃ draws, panelInitialised n f p = { p with
      ddram := Memory.fill 128 0x20, ac := 0, inc := true, shiftOn := false, display := true, cursor := false,
      blink := false, lines := n, font := f, shift := 0, configured := true, uploaded := false, draws := draws } := by
  rw [panelInitialised, panelFunction_taken ⟨rfl, rfl, hnf, .inl hc⟩]
  exact ⟨_, rfl⟩

/-! ### The whole of INIT -/

/-- FUNCTION_SET's word as INIT sends it, for a legal number of rows (R29, R81). -/
theorem decodeWord_functionCommand {rows : Byte} (font : Bool) (h : rows = 1 ∨ rows = 2 ∨ rows = 4) :
    decodeWord (ctrlWord false (0x20 ||| funcsetOf rows font)) =
      .functionSet false (decide (rows ≠ 1)) (font && decide (rows = 1)) 0 := by
  rcases h with rfl | rfl | rfl <;> cases font <;> rfl

/-- INIT's last byte releases HOME's low nibble. -/
theorem initBytes_getLastD (bl : Bool) (function b : Byte) :
    (strobeBytes bl ++ initCommandBytes bl function).getLastD b = if bl then 0x28 else 0x20 := by
  have hx : (strobeBytes bl ++ initCommandBytes bl function).getLastD b = wireByte bl 0x20 false false := rfl
  rw [hx]
  cases bl <;> rfl

/-- The mark `framed` stands where no nibble is held (notes/assumptions/15.md). -/
theorem lcdResyncStart_framed {l : Lcd} (hf : l.panel.framed = true)
    (hn : l.obs.mode = .eight ∨ l.obs.phase = .high) : (lcdResyncStart l).panel.framed = true := by
  rcases hn with hn | hn <;> simp [lcdResyncStart, hf, hn]

/-- Settles O45: the strobes from any controller, then the five commands. -/
theorem initBringsControllerIntoStep : Obligations.InitBringsControllerIntoStep := by
  unfold Obligations.InitBringsControllerIntoStep
  intro rows cols addr clamp font backlight s rest hs hok hrows hlow hhigh
  have hg := (geometryLegal_iff rows cols).mpr ⟨hrows, hlow, hhigh⟩
  have hnf : ¬ (decide (rows ≠ 1) = true ∧ (font && decide (rows = 1)) = true) := by simp +contextual
  obtain ⟨hfollows, hconf⟩ := follows_observeAll_strobes backlight (lcdResyncStart_resync s.lcd)
  obtain ⟨⟨hstep, hpanel⟩, hregion⟩ := observeAll_initCommands backlight hfollows (decodeWord_functionCommand font hrows)
  obtain ⟨draws, hcontents⟩ := panelInitialised_contents hnf hconf
  rw [hcontents] at hpanel
  refine ⟨_, exec_init_ok addr clamp font backlight hs hok hg rfl, ?_⟩
  simp only [sentBytes_initEvents, observeAll_append, initRegisters_lcd, initRegisters_bl, initRegisters_funcset,
    sentOk_expLatch, initBytes_getLastD, lcdResyncEnd, hpanel, true_and]
  refine ⟨hstep, hregion, hfollows.2, fun a ha => Memory.read_fill 128 a 0x20 ha, fun hf hn => ?_⟩
  exact observeAll_strobes_cgram backlight rfl (lcdResyncStart_framed hf hn) hn

end Sys2Proof.Machine
end
